-- ==== Sys2Proof/Word.lean ====
section
/-! DEFINITION. The widths of the hardware (00_scope R10): everything is unsigned, bit 0 is the least significant bit. -/

namespace Sys2Proof

/-- 4 bits: a register index (X, Y), a row count (N), a group selector (G), a key or digit. -/
abbrev Nibble := BitVec 4

/-- 8 bits: a general register, a timer, a memory byte, the immediate NN. -/
abbrev Byte := BitVec 8

/-- 12 bits: the address operand NNN. -/
abbrev Addr := BitVec 12

/-- 16 bits: an instruction word, and the storage of PC, I and a return address. -/
abbrev Word := BitVec 16

end Sys2Proof
end

