-- ==== Sys2Proof/Syntax.lean ====
section
/-! DEFINITION. The 35 instructions of 30_encoding R98, one constructor per row of spec/opcode_table.json, in its order.
Operands are the fields of R92, at their own widths: `x`, `y` register indices, `n` the nibble immediate, `nn` the byte
immediate, `nnn` the address operand. -/

namespace Sys2Proof

/-- An instruction (30_encoding R98). CLS and RET carry bits 11:8 of their word, which the match ignores (R99): they
select nothing, but a diagnostic record holds the whole word (60_exceptions R200). -/
inductive Instr where
  | sys (nnn : Addr)              -- 0NNN  SYS NNN
  | cls (x : Nibble)              -- 0XE0  CLS
  | ret (x : Nibble)              -- 0XEE  RET
  | jp (nnn : Addr)               -- 1NNN  JP NNN
  | call (nnn : Addr)             -- 2NNN  CALL NNN
  | seImm (x : Nibble) (nn : Byte)     -- 3XNN  SE Vx, NN
  | sneImm (x : Nibble) (nn : Byte)    -- 4XNN  SNE Vx, NN
  | seReg (x y : Nibble)          -- 5XY0  SE Vx, Vy
  | ldImm (x : Nibble) (nn : Byte)     -- 6XNN  LD Vx, NN
  | addImm (x : Nibble) (nn : Byte)    -- 7XNN  ADD Vx, NN
  | ldReg (x y : Nibble)          -- 8XY0  LD Vx, Vy
  | orReg (x y : Nibble)          -- 8XY1  OR Vx, Vy
  | andReg (x y : Nibble)         -- 8XY2  AND Vx, Vy
  | xorReg (x y : Nibble)         -- 8XY3  XOR Vx, Vy
  | addReg (x y : Nibble)         -- 8XY4  ADD Vx, Vy
  | sub (x y : Nibble)            -- 8XY5  SUB Vx, Vy
  | shr (x y : Nibble)            -- 8XY6  SHR Vx, Vy
  | subn (x y : Nibble)           -- 8XY7  SUBN Vx, Vy
  | shl (x y : Nibble)            -- 8XYE  SHL Vx, Vy
  | sneReg (x y : Nibble)         -- 9XY0  SNE Vx, Vy
  | ldI (nnn : Addr)              -- ANNN  LD I, NNN
  | jpV0 (nnn : Addr)             -- BNNN  JP V0, NNN
  | rnd (x : Nibble) (nn : Byte)       -- CXNN  RND Vx, NN
  | drw (x y n : Nibble)          -- DXYN  DRW Vx, Vy, N
  | skp (x : Nibble)              -- EX9E  SKP Vx
  | sknp (x : Nibble)             -- EXA1  SKNP Vx
  | ldVxDt (x : Nibble)           -- FX07  LD Vx, DT
  | ldVxK (x : Nibble)            -- FX0A  LD Vx, K
  | ldDtVx (x : Nibble)           -- FX15  LD DT, Vx
  | ldStVx (x : Nibble)           -- FX18  LD ST, Vx
  | addI (x : Nibble)             -- FX1E  ADD I, Vx
  | ldF (x : Nibble)              -- FX29  LD F, Vx
  | ldB (x : Nibble)              -- FX33  LD B, Vx
  | storeRegs (x : Nibble)        -- FX55  LD [I], Vx
  | loadRegs (x : Nibble)         -- FX65  LD Vx, [I]
  deriving DecidableEq, Repr

end Sys2Proof
end

