-- ==== Sys2Proof/WellFormed.lean ====
section
/-! DEFINITION. Which terms of Instr are instructions of the hardware. Every operand stands at its field's own width, so
the types make the range checks; the one check left is row 1's exclusion (30_encoding R98, R99). -/

namespace Sys2Proof

/-- The low byte of an address operand: the field NN of a group 0x0 word (30_encoding R92). -/
def Addr.lowByte (nnn : Addr) : Byte := nnn.extractLsb' 0 8

/-- An instruction that some word decodes to. SYS excludes the low bytes 0xE0 (CLS) and 0xEE (RET) (R98 row 1, R99). -/
def Instr.wellFormed : Instr → Bool
  | .sys nnn => Addr.lowByte nnn != 0xE0#8 && Addr.lowByte nnn != 0xEE#8
  | _ => true

end Sys2Proof
end

