-- ==== Sys2Proof/Decode.lean ====
section
/-! DEFINITION. The decoder and the dispatcher's verdict (30_encoding R92 to R101), and the encoder written from the same
patterns (R98). Both are functions of one 16-bit word; the bytes reach them big-endian (R91). -/

namespace Sys2Proof

/-- The fields the decoder always extracts, from every word (R92). They overlap. -/
structure Fields where
  g : Nibble
  x : Nibble
  y : Nibble
  n : Nibble
  nn : Byte
  nnn : Addr
  deriving DecidableEq, Repr

/-- The field split of R92: total, pure, no error case (R93). -/
def splitFields (w : Word) : Fields where
  g := w.extractLsb' 12 4
  x := w.extractLsb' 8 4
  y := w.extractLsb' 4 4
  n := w.extractLsb' 0 4
  nn := w.extractLsb' 0 8
  nnn := w.extractLsb' 0 12

/-- The dispatcher's verdict on a word: one of the 35 instructions, or unrecognised (R100, R101). -/
inductive Decoded where
  | recognised (i : Instr)
  | unrecognised (opcode : Word)
  deriving DecidableEq, Repr

/-- Group 0x0, matched on the low byte only (R99, decision D5): CLS, RET, and SYS for every other word. -/
def decodeGroup0 (f : Fields) : Decoded :=
  if f.nn = 0xE0#8 then .recognised (.cls f.x)
  else if f.nn = 0xEE#8 then .recognised (.ret f.x)
  else .recognised (.sys f.nnn)

/-- Group 0x8, matched on the low nibble (R97). -/
def decodeGroup8 (w : Word) (f : Fields) : Decoded :=
  if f.n = 0x0#4 then .recognised (.ldReg f.x f.y)
  else if f.n = 0x1#4 then .recognised (.orReg f.x f.y)
  else if f.n = 0x2#4 then .recognised (.andReg f.x f.y)
  else if f.n = 0x3#4 then .recognised (.xorReg f.x f.y)
  else if f.n = 0x4#4 then .recognised (.addReg f.x f.y)
  else if f.n = 0x5#4 then .recognised (.sub f.x f.y)
  else if f.n = 0x6#4 then .recognised (.shr f.x f.y)
  else if f.n = 0x7#4 then .recognised (.subn f.x f.y)
  else if f.n = 0xE#4 then .recognised (.shl f.x f.y)
  else .unrecognised w

/-- Group 0xE, matched on the low byte (R97). -/
def decodeGroupE (w : Word) (f : Fields) : Decoded :=
  if f.nn = 0x9E#8 then .recognised (.skp f.x)
  else if f.nn = 0xA1#8 then .recognised (.sknp f.x)
  else .unrecognised w

/-- Group 0xF, matched on the low byte (R97). -/
def decodeGroupF (w : Word) (f : Fields) : Decoded :=
  if f.nn = 0x07#8 then .recognised (.ldVxDt f.x)
  else if f.nn = 0x0A#8 then .recognised (.ldVxK f.x)
  else if f.nn = 0x15#8 then .recognised (.ldDtVx f.x)
  else if f.nn = 0x18#8 then .recognised (.ldStVx f.x)
  else if f.nn = 0x1E#8 then .recognised (.addI f.x)
  else if f.nn = 0x29#8 then .recognised (.ldF f.x)
  else if f.nn = 0x33#8 then .recognised (.ldB f.x)
  else if f.nn = 0x55#8 then .recognised (.storeRegs f.x)
  else if f.nn = 0x65#8 then .recognised (.loadRegs f.x)
  else .unrecognised w

/-- Selection by group selector, then the secondary match (R96, R97). The last arm is group 0xF: a group selector is below 16. -/
def dispatchFields (w : Word) (f : Fields) : Decoded :=
  match f.g.toNat with
  | 0x0 => decodeGroup0 f
  | 0x1 => .recognised (.jp f.nnn)
  | 0x2 => .recognised (.call f.nnn)
  | 0x3 => .recognised (.seImm f.x f.nn)
  | 0x4 => .recognised (.sneImm f.x f.nn)
  | 0x5 => if f.n = 0x0#4 then .recognised (.seReg f.x f.y) else .unrecognised w
  | 0x6 => .recognised (.ldImm f.x f.nn)
  | 0x7 => .recognised (.addImm f.x f.nn)
  | 0x8 => decodeGroup8 w f
  | 0x9 => if f.n = 0x0#4 then .recognised (.sneReg f.x f.y) else .unrecognised w
  | 0xA => .recognised (.ldI f.nnn)
  | 0xB => .recognised (.jpV0 f.nnn)
  | 0xC => .recognised (.rnd f.x f.nn)
  | 0xD => .recognised (.drw f.x f.y f.n)
  | 0xE => decodeGroupE w f
  | _ => decodeGroupF w f

/-- The decoder: total on all 65536 words (R93, R101); no quirk and no state changes it (R103). -/
def decode (w : Word) : Decoded := dispatchFields w (splitFields w)

/-- The word of two bytes as fetch assembles it: the first byte, at the lower address, is bits 15:8 (R91). -/
def wordOfBytes (hi lo : Byte) : Word := hi ++ lo

/-- The byte of a word that stands at the lower address (R91). -/
def Word.highByte (w : Word) : Byte := w.extractLsb' 8 8

/-- The byte of a word that stands at the higher address (R91). -/
def Word.lowByte (w : Word) : Byte := w.extractLsb' 0 8

/-- The decoder on the two bytes of an instruction as they lie in memory, the lower address first (R91). -/
def decodeBytes (hi lo : Byte) : Decoded := decode (wordOfBytes hi lo)

/-- The word of an instruction, from the patterns of R98. -/
def encode : Instr → Word
  | .sys nnn => 0x0#4 ++ nnn
  | .cls x => 0x0#4 ++ x ++ 0xE0#8
  | .ret x => 0x0#4 ++ x ++ 0xEE#8
  | .jp nnn => 0x1#4 ++ nnn
  | .call nnn => 0x2#4 ++ nnn
  | .seImm x nn => 0x3#4 ++ x ++ nn
  | .sneImm x nn => 0x4#4 ++ x ++ nn
  | .seReg x y => 0x5#4 ++ x ++ y ++ 0x0#4
  | .ldImm x nn => 0x6#4 ++ x ++ nn
  | .addImm x nn => 0x7#4 ++ x ++ nn
  | .ldReg x y => 0x8#4 ++ x ++ y ++ 0x0#4
  | .orReg x y => 0x8#4 ++ x ++ y ++ 0x1#4
  | .andReg x y => 0x8#4 ++ x ++ y ++ 0x2#4
  | .xorReg x y => 0x8#4 ++ x ++ y ++ 0x3#4
  | .addReg x y => 0x8#4 ++ x ++ y ++ 0x4#4
  | .sub x y => 0x8#4 ++ x ++ y ++ 0x5#4
  | .shr x y => 0x8#4 ++ x ++ y ++ 0x6#4
  | .subn x y => 0x8#4 ++ x ++ y ++ 0x7#4
  | .shl x y => 0x8#4 ++ x ++ y ++ 0xE#4
  | .sneReg x y => 0x9#4 ++ x ++ y ++ 0x0#4
  | .ldI nnn => 0xA#4 ++ nnn
  | .jpV0 nnn => 0xB#4 ++ nnn
  | .rnd x nn => 0xC#4 ++ x ++ nn
  | .drw x y n => 0xD#4 ++ x ++ y ++ n
  | .skp x => 0xE#4 ++ x ++ 0x9E#8
  | .sknp x => 0xE#4 ++ x ++ 0xA1#8
  | .ldVxDt x => 0xF#4 ++ x ++ 0x07#8
  | .ldVxK x => 0xF#4 ++ x ++ 0x0A#8
  | .ldDtVx x => 0xF#4 ++ x ++ 0x15#8
  | .ldStVx x => 0xF#4 ++ x ++ 0x18#8
  | .addI x => 0xF#4 ++ x ++ 0x1E#8
  | .ldF x => 0xF#4 ++ x ++ 0x29#8
  | .ldB x => 0xF#4 ++ x ++ 0x33#8
  | .storeRegs x => 0xF#4 ++ x ++ 0x55#8
  | .loadRegs x => 0xF#4 ++ x ++ 0x65#8

/-- The row of the opcode map an instruction belongs to, as R98 numbers it. -/
def Instr.rowNumber : Instr → Nat
  | .sys _ => 1
  | .cls _ => 2
  | .ret _ => 3
  | .jp _ => 4
  | .call _ => 5
  | .seImm _ _ => 6
  | .sneImm _ _ => 7
  | .seReg _ _ => 8
  | .ldImm _ _ => 9
  | .addImm _ _ => 10
  | .ldReg _ _ => 11
  | .orReg _ _ => 12
  | .andReg _ _ => 13
  | .xorReg _ _ => 14
  | .addReg _ _ => 15
  | .sub _ _ => 16
  | .shr _ _ => 17
  | .subn _ _ => 18
  | .shl _ _ => 19
  | .sneReg _ _ => 20
  | .ldI _ => 21
  | .jpV0 _ => 22
  | .rnd _ _ => 23
  | .drw _ _ _ => 24
  | .skp _ => 25
  | .sknp _ => 26
  | .ldVxDt _ => 27
  | .ldVxK _ => 28
  | .ldDtVx _ => 29
  | .ldStVx _ => 30
  | .addI _ => 31
  | .ldF _ => 32
  | .ldB _ => 33
  | .storeRegs _ => 34
  | .loadRegs _ => 35

/-- The mask and match columns of R98, row by row; the decoder above does not use them. -/
def opcodeRows : List (Nat × Word × Word) :=
  [(1, 0xF000, 0x0000), (2, 0xF0FF, 0x00E0), (3, 0xF0FF, 0x00EE), (4, 0xF000, 0x1000), (5, 0xF000, 0x2000),
   (6, 0xF000, 0x3000), (7, 0xF000, 0x4000), (8, 0xF00F, 0x5000), (9, 0xF000, 0x6000), (10, 0xF000, 0x7000)] ++
  [(11, 0xF00F, 0x8000), (12, 0xF00F, 0x8001), (13, 0xF00F, 0x8002), (14, 0xF00F, 0x8003), (15, 0xF00F, 0x8004),
   (16, 0xF00F, 0x8005), (17, 0xF00F, 0x8006), (18, 0xF00F, 0x8007), (19, 0xF00F, 0x800E), (20, 0xF00F, 0x9000)] ++
  [(21, 0xF000, 0xA000), (22, 0xF000, 0xB000), (23, 0xF000, 0xC000), (24, 0xF000, 0xD000), (25, 0xF0FF, 0xE09E),
   (26, 0xF0FF, 0xE0A1)] ++
  [(27, 0xF0FF, 0xF007), (28, 0xF0FF, 0xF00A), (29, 0xF0FF, 0xF015), (30, 0xF0FF, 0xF018), (31, 0xF0FF, 0xF01E),
   (32, 0xF0FF, 0xF029), (33, 0xF0FF, 0xF033), (34, 0xF0FF, 0xF055), (35, 0xF0FF, 0xF065)]

/-- A word passes a row of R98: `(w and mask) = match`, and row 1 excludes the low bytes 0xE0 and 0xEE. -/
def passesRow (w : Word) (row : Nat × Word × Word) : Bool :=
  w &&& row.2.1 == row.2.2 && (row.1 != 1 || (w &&& 0x00FF != 0x00E0 && w &&& 0x00FF != 0x00EE))

/-- The instruction the decoder reads from an instruction whose bits are `w`, numbered as spec/opcode_table.json numbers
them: bit 0 is the least significant bit of the word, and the bits above `nbits` are 0. The word is laid out
big-endian (R91) and given to `decodeBytes`. -/
def decodeTableWord (nbits w : Nat) : Option Instr :=
  let word : Word := BitVec.ofNat 16 (w % 2 ^ nbits)
  match decodeBytes (Word.highByte word) (Word.lowByte word) with
  | .recognised i => some i
  | .unrecognised _ => none

end Sys2Proof
end

