-- ==== Sys2Proof/Config.lean ====
section
/-! DEFINITION. The fixed parameters of 00_scope R7 and the one free value of the hardware, the RND input of R8. The
open parameters that have a reference value (the font, the quirks after reset, the quantum) stand in
Sys2Proof/Machine/Params.lean, as an argument of the model. -/

namespace Sys2Proof

/-- MEM_SIZE (R7): bytes of memory, and the modulus of every address. -/
@[simp] abbrev Config.memSize : Nat := 4096

/-- FONT_BASE (R7): first byte of the built-in font. -/
@[simp] abbrev Config.fontBase : Nat := 0x000

/-- PROG_BASE (R7): the load address and the reset PC. -/
@[simp] abbrev Config.progBase : Nat := 0x200

/-- PROG_MAX (R7): the largest program image in bytes. -/
@[simp] abbrev Config.progMax : Nat := 3584

/-- FLAG_REG (R7): the index of VF. -/
@[simp] abbrev Config.flagReg : Nibble := 15#4

/-- STACK_DEPTH (R7): call-stack entries. -/
@[simp] abbrev Config.stackDepth : Nat := 16

/-- FB_W (R7): framebuffer columns. -/
@[simp] abbrev Config.fbWidth : Nat := 64

/-- FB_H (R7): framebuffer rows. -/
@[simp] abbrev Config.fbHeight : Nat := 32

/-- NKEYS (R7): key flags. -/
@[simp] abbrev Config.nKeys : Nat := 16

/-- INSTR_BYTES (R7): every instruction is one 16-bit word. -/
@[simp] abbrev Config.instrBytes : Nat := 2

/-- GLYPH_BYTES (R7): bytes of one font glyph. -/
@[simp] abbrev Config.glyphBytes : Nat := 5

/-- The byte the RND input gives at its n-th draw (00_scope R8, 41_alu R151: "a free input byte per execution, any
value, no law", decision D24). A FREE VALUE: it has no body, so nothing can be proved about which byte it is.
Log entry 3. -/
opaque Config.randomByte : Nat → Byte

end Sys2Proof
end

