-- ==== Sys2Proof/Machine/Params.lean ====
section
/-! DEFINITION. The open parameters of 00_scope R8 that are fixed for one machine, as a record the model takes as an argument,
and the spec's reference values of them. K and `elapsed` are arguments of each tick; RND is the free value of Config.lean. -/

namespace Sys2Proof.Machine

/-- The three quirk switches (10_state R38); `true` is value 1. -/
structure Quirks where
  /-- QA: the shifted source is V[X] (else V[Y]). -/
  qa : Bool
  /-- QB: pixels outside the grid wrap around (else they are clipped). -/
  qb : Bool
  /-- QC: a bulk load or store leaves I unchanged (else I goes up by X + 1). -/
  qc : Bool
  deriving DecidableEq, Repr

/-- The open parameters (00_scope R8). No instruction reads one: they act through Reset and through the timer phase. -/
structure Params where
  /-- REF_HZ: units of `elapsed` in a second. -/
  refHz : Nat
  /-- QUIRK_RESET: the quirk switches after Reset. -/
  quirkReset : Quirks
  /-- FONT_ROM: the glyph data Reset places at 0x000..0x04F, glyph d at 5 * d. -/
  fontRom : Vector Byte 80
  deriving DecidableEq, Repr

/-- QUANTUM = REF_HZ / 60 (00_scope R8): units of `elapsed` in one timer decrement. -/
def Params.quantum (p : Params) : Nat := p.refHz / 60

/-- REF_HZ is a multiple of 60 (00_scope R8), and not 0: QUANTUM divides the real time. -/
abbrev Params.valid (p : Params) : Prop := 0 < p.refHz ∧ p.refHz % 60 = 0

/-- The reference FONT_ROM (10_state R44): 16 glyphs of 5 bytes. Log entry 7 (PRESUMED). -/
def referenceFontRom : List Byte :=
  [0xF0, 0x90, 0x90, 0x90, 0xF0, 0x20, 0x60, 0x20, 0x20, 0x70, 0xF0, 0x10, 0xF0, 0x80, 0xF0, 0xF0, 0x10, 0xF0, 0x10, 0xF0] ++
  [0x90, 0x90, 0xF0, 0x10, 0x10, 0xF0, 0x80, 0xF0, 0x10, 0xF0, 0xF0, 0x80, 0xF0, 0x90, 0xF0, 0xF0, 0x10, 0x20, 0x40, 0x40] ++
  [0xF0, 0x90, 0xF0, 0x90, 0xF0, 0xF0, 0x90, 0xF0, 0x10, 0xF0, 0xF0, 0x90, 0xF0, 0x90, 0x90, 0xE0, 0x90, 0xE0, 0x90, 0xE0] ++
  [0xF0, 0x80, 0x80, 0x80, 0xF0, 0xE0, 0x90, 0x90, 0x90, 0xE0, 0xF0, 0x80, 0xF0, 0x80, 0xF0, 0xF0, 0x80, 0xF0, 0x80, 0x80]

/-- The reference values of 00_scope R8: REF_HZ of decision D17 (log entry 9), QUIRK_RESET of D9 (log entry 6), the font of
10_state R44 (log entry 7). -/
def Params.reference : Params where
  refHz := 60000
  quirkReset := { qa := false, qb := false, qc := false }
  fontRom := ⟨referenceFontRom.toArray, by decide⟩

end Sys2Proof.Machine
end

