-- ==== Sys2Proof/Machine/State.lean ====
section
/-! DEFINITION. The complete state of the hardware (10_state R20) as plain data, and its value after reset (R43). -/

namespace Sys2Proof.Machine

/-- MEM (10_state R36): the cells whose byte differs from the reference reset contents, in strictly rising order of address
(`Memory.wf` in Machine/Ops.lean). -/
abbrev Memory := List Host.Cell

/-- FB (10_state R33, R34): row y is entry y, and column x of it is bit x. Log entry 12. -/
abbrev Framebuffer := Vector (BitVec 64) 32

/-- RUN (10_state R39): the scheduler's state. -/
inductive RunState where
  | running
  | paused
  | pausedStep
  deriving DecidableEq, Repr

/-- The kinds of diagnostic event (60_exceptions R202 to R207). -/
inductive EventKind where
  | unrecognizedOpcode
  | stackOverflow
  | stackUnderflow
  | invalidDigit
  | invalidKeyIndex
  | machineSubroutine
  deriving DecidableEq, Repr

/-- One record of the diagnostic output (60_exceptions R200): its kind, the word that raised it, and the offending
register value (0 for the kinds that have none). -/
structure Event where
  kind : EventKind
  opcode : Word
  value : Byte
  deriving DecidableEq, Repr

/-- The complete state of the hardware, the tuple of 10_state R20, no piece more and none less (R45). -/
structure ArchState where
  /-- MEM (R36). -/
  mem : Memory
  /-- V0 to VF (R21); VF is `v[15]` (R22, R23). -/
  v : Vector Byte 16
  /-- I (R24). -/
  i : Word
  /-- PC (R25). -/
  pc : Word
  /-- SP (R28): the number of call-stack entries in use. -/
  sp : Byte
  /-- STACK (R29). -/
  stack : Vector Word 16
  /-- DT (R31). -/
  dt : Byte
  /-- ST (R32). -/
  st : Byte
  /-- FB (R33). -/
  fb : Framebuffer
  /-- KEYS (R35): `true` is down. -/
  keys : Vector Bool 16
  /-- QUIRKS (R37, R38). -/
  quirks : Quirks
  /-- RUN (R39). -/
  run : RunState
  /-- ACC (R40). -/
  acc : Nat
  /-- DIAG (R41), oldest event first. -/
  diag : List Event
  deriving DecidableEq, Repr

/-- What a step maps: the hardware's state, and the place reached in the RND input. RND is a stream of bytes that comes from
outside (00_scope R8), and "the random byte is an input" (10_state R20), no state; a step that takes nothing but a state has
to be told which byte of the stream is next. `draws`, how many bytes have been taken, is that and nothing else: it is the
model's own (log entry 3), and no instruction but RND depends on it. -/
structure State extends ArchState where
  /-- The model's own: bytes taken from RND so far. -/
  draws : Nat
  deriving DecidableEq, Repr

/-- Why a step may stop with a fault. -/
inductive Fault where
  /-- Raised by CALL and RET in a state whose SP is above 16, where SP addresses no entry of the 16-entry STACK. 10_state
  R28 rules such states out ("no rule of this spec can make SP exceed 16") and no run reaches one. Safe: log entry 8. -/
  | stackPointerOutOfRange
  deriving DecidableEq, Repr

/-- Why an instruction or a host operation may be refused. -/
inductive Refusal where
  /-- An instruction with no meaning yet; raised by `exec` only. No arm raises it: every instruction has its meaning. Safe. -/
  | notModelled (mnemonic : String)
  /-- The error LoadTooLarge of the host operation LoadProgram (70_reset R257), never of an instruction: the image has more
  than 3584 bytes, nothing is copied, and the host must not go on to Tick. Safe. -/
  | loadTooLarge
  deriving DecidableEq, Repr

/-- The machine right after reset at the reference parameters (10_state R43, 70_reset R250); `State.resetWith` in
Machine/HostOps.lean is the machine right after reset at any. Log entries 4 (`draws`), 5 (the zeros of decision D14), 6 (the
quirks), 7 (the font). -/
def State.reset : State where
  mem := []
  v := .replicate 16 0
  i := 0
  pc := BitVec.ofNat 16 Config.progBase
  sp := 0
  stack := .replicate 16 0
  dt := 0
  st := 0
  fb := .replicate 32 0
  keys := .replicate 16 false
  quirks := Params.reference.quirkReset
  run := .running
  acc := 0
  diag := []
  draws := 0

end Sys2Proof.Machine
end

