-- ==== Sys2Proof/Machine/Ops.lean ====
section
/-! DEFINITION. The named operations every meaning is written with: memory (20_memory R60 to R66), general registers
(10_state R21), PC and I (R24 to R26), the call stack (R28 to R30), the framebuffer (R33, R34), the diagnostic
operation `raise` (60_exceptions R200, R210), which is all the hardware has of an exception, and the fetch
(30_encoding R91, R95). There is no return from an exception (60_exceptions R211). -/

namespace Sys2Proof.Machine

/-- What one step answers. -/
abbrev Result := Host.Outcome State Fault Refusal

/-! ### Memory -/

/-- What an address that memory does not list reads as: the contents after reset at the reference parameters, the font at
0x000..0x04F and zero elsewhere (10_state R43, R44). With another FONT_ROM, Reset lists the bytes that differ. Log entries 5
and 7. -/
def unlistedByte (a : Nat) : Byte :=
  if a < Config.fontBase then 0 else referenceFontRom.getD (a - Config.fontBase) 0

/-- The byte at address `a`. -/
def Memory.read : Memory → Nat → Byte
  | [], a => unlistedByte a
  | (k, b) :: rest, a => if k = a then b else Memory.read rest a

/-- The cell of address `a` holding `b`, put before `rest`, left out where an unlisted address reads as `b`. -/
def Memory.consCell (a : Nat) (b : Byte) (rest : Memory) : Memory :=
  if b = unlistedByte a then rest else (a, b) :: rest

/-- Memory with `b` at address `a`, in canonical form again. -/
def Memory.write : Memory → Nat → Byte → Memory
  | [], a, b => Memory.consCell a b []
  | (k, c) :: rest, a, b =>
    if k < a then (k, c) :: Memory.write rest a b
    else if k = a then Memory.consCell a b rest
    else Memory.consCell a b ((k, c) :: rest)

/-- The canonical form: addresses strictly rising and below 4096 (R60), no entry equal to what an unlisted address reads
as. -/
abbrev Memory.wf (m : Memory) : Prop :=
  m.Pairwise (fun p q => p.1 < q.1) ∧ ∀ c ∈ m, c.1 < Config.memSize ∧ c.2 ≠ unlistedByte c.1

/-- MemRead(a, 1): the address is reduced modulo 4096 (R62, R63). No state changes. -/
def State.memRead (s : State) (a : Nat) : Byte := Memory.read s.mem (a % Config.memSize)

/-- MemWrite(a, 1, b): the address is reduced modulo 4096 (R62, R64). -/
def State.memWrite (s : State) (a : Nat) (b : Byte) : State :=
  { s with mem := Memory.write s.mem (a % Config.memSize) b }

/-! ### General registers -/

/-- V[x] (10_state R21). -/
def State.readV (s : State) (x : Nibble) : Byte := s.v[x.toNat]'(x.isLt)

/-- V[x] <- b (10_state R21). -/
def State.writeV (s : State) (x : Nibble) (b : Byte) : State := { s with v := s.v.set x.toNat b x.isLt }

/-! ### PC and I -/

/-- PC <- t, stored modulo 4096 (10_state R26). -/
def State.setPc (s : State) (t : Nat) : State := { s with pc := BitVec.ofNat 16 (t % Config.memSize) }

/-- PC <- PC + 2, the advance before dispatch (30_encoding R95) and the skip (40_flow R129). -/
def State.advancePc (s : State) : State := s.setPc (s.pc.toNat + Config.instrBytes)

/-- PC <- PC - 2, stored modulo 4096, the rewind of LD Vx, K (43_keys_timers R172). -/
def State.rewindPc (s : State) : State := s.setPc (s.pc - 2).toNat

/-- I <- t, stored modulo 4096 (10_state R24). -/
def State.setI (s : State) (t : Nat) : State := { s with i := BitVec.ofNat 16 (t % Config.memSize) }

/-! ### Timers and the random input -/

/-- DT <- b (10_state R31). -/
def State.setDt (s : State) (b : Byte) : State := { s with dt := b }

/-- ST <- b (10_state R32). -/
def State.setSt (s : State) (b : Byte) : State := { s with st := b }

/-- The byte the next draw gives, a free value (00_scope R8, 41_alu R151). Log entry 3. -/
def State.nextRandomByte (s : State) : Byte := Config.randomByte s.draws

/-- The state once that byte is taken: the next draw is another free value. -/
def State.takeDraw (s : State) : State := { s with draws := s.draws + 1 }

/-! ### The call stack -/

/-- STACK[SP] <- a; SP <- SP + 1, where SP addresses an entry (10_state R30). -/
def State.push (s : State) (a : Word) (h : s.sp.toNat < 16) : State :=
  { s with stack := s.stack.set s.sp.toNat a h, sp := s.sp + 1 }

/-- SP <- SP - 1; PC <- STACK[SP], where the new SP addresses an entry; the slot keeps its value (10_state R30), and the
write of PC is reduced modulo 4096 (R26). -/
def State.pop (s : State) (h : s.sp.toNat - 1 < 16) : State :=
  { s with sp := s.sp - 1 }.setPc (s.stack[s.sp.toNat - 1]'h).toNat

/-! ### The framebuffer -/

/-- FB[y][x] (10_state R34); false outside the grid, where there is no pixel. -/
def Framebuffer.pixel (fb : Framebuffer) (y x : Nat) : Bool := (fb[y]?.getD 0).getLsbD x

/-- FB[y][x] <- FB[y][x] xor 1 (10_state R33), where (x, y) is on the grid. -/
def Framebuffer.toggle (fb : Framebuffer) (y x : Nat) : Framebuffer :=
  fb.setIfInBounds y (fb[y]?.getD 0 ^^^ BitVec.twoPow 64 x)

/-- The framebuffer whose 2048 bits are all 0. -/
def Framebuffer.blank : Framebuffer := .replicate 32 0

/-- FB <- fb. -/
def State.setFb (s : State) (fb : Framebuffer) : State := { s with fb := fb }

/-! ### Diagnostic events -/

/-- The numeric code of an event kind (60_exceptions R202 to R207, decision D13). -/
def EventKind.code : EventKind → Nat
  | .unrecognizedOpcode => 1
  | .stackOverflow => 2
  | .stackUnderflow => 3
  | .invalidDigit => 4
  | .invalidKeyIndex => 5
  | .machineSubroutine => 6

/-- The record as the triple (code, opcode, value) of 60_exceptions R200. -/
def Event.record (e : Event) : Nat × Word × Byte := (e.kind.code, e.opcode, e.value)

/-- `raise E(info)` (60_exceptions R200, R210): append one record to DIAG and change nothing else. PC keeps the value it
has, the address of the next instruction. -/
def State.raise (s : State) (kind : EventKind) (opcode : Word) (value : Byte) : State :=
  { s with diag := s.diag ++ [{ kind := kind, opcode := opcode, value := value }] }

/-! ### The instruction cycle -/

/-- MemRead(PC, 2): the word at PC, its high byte at the lower address, the second address modulo 4096 (30_encoding R91,
20_memory R63, R65). -/
def State.fetchWord (s : State) : Word := wordOfBytes (s.memRead s.pc.toNat) (s.memRead (s.pc.toNat + 1))

/-- The state with the word `w` stored big-endian where the next fetch reads (the host's aid, no operation of the
hardware). -/
def State.storeWordAtPc (s : State) (w : Word) : State :=
  (s.memWrite s.pc.toNat (Word.highByte w)).memWrite (s.pc.toNat + 1) (Word.lowByte w)

/-- What the dispatcher does with an unrecognised word, PC having advanced: report it and do nothing else (30_encoding R100,
60_exceptions R202). -/
def State.reportUnrecognized (s : State) (opcode : Word) : State := s.raise .unrecognizedOpcode opcode 0

end Sys2Proof.Machine
end

