-- ==== Sys2Proof/Machine/Operands.lean ====
section
/-! DEFINITION. The operand forms: effective addresses, the shifted source, key indices and digits, the keypad scan, BCD
digits, the sprite's origin and rows, the registers of a bulk transfer. -/

namespace Sys2Proof.Machine

/-- The effective address (I + k) mod 4096, the one addressing mode (44_index_memory R186, 20_memory R62). -/
def effAddr (i : Word) (k : Nat) : Nat := (i.toNat + k) % Config.memSize

/-- MemWrite of successive bytes at (i + k) mod 4096, (i + k + 1) mod 4096, ... in ascending address order (20_memory R64,
R67). The addresses come from the index value `i` given, whatever the stores do. -/
def State.storeBytes (s : State) (i : Word) (k : Nat) : List Byte → State
  | [] => s
  | b :: rest => State.storeBytes (s.memWrite (effAddr i k) b) i (k + 1) rest

/-- The register SHR and SHL shift: V[Y] with QA = 0, V[X] with QA = 1 (10_state R38, 41_alu R148, R150). -/
def State.shiftSource (s : State) (x y : Nibble) : Byte := if s.quirks.qa then s.readV x else s.readV y

/-- A key index or a digit is valid iff the WHOLE byte is 0..15 (43_keys_timers R176, 44_index_memory R182, decision D12). -/
def validIndex (b : Byte) : Bool := b.toNat ≤ 15

/-- KEYS[k] (10_state R35); false for a number that is no key. -/
def State.keyDown (s : State) (k : Nat) : Bool := s.keys[k]?.getD false

/-- The least key that is down, if any is (43_keys_timers R172, decision D11). -/
def State.leastKeyDown (s : State) : Option Nat := (List.range Config.nKeys).find? s.keyDown

/-- The address of the glyph of a digit: FONT_BASE + GLYPH_BYTES * d (44_index_memory R182). -/
def glyphAddr (d : Byte) : Nat := Config.fontBase + Config.glyphBytes * d.toNat

/-- Hundreds, tens and ones of a byte (44_index_memory R183). -/
def bcdDigits (b : Byte) : List Byte :=
  [BitVec.ofNat 8 (b.toNat / 100), BitVec.ofNat 8 (b.toNat / 10 % 10), BitVec.ofNat 8 (b.toNat % 10)]

/-- V[0], ..., V[X], the registers a bulk store writes out (44_index_memory R184). -/
def State.lowRegs (s : State) (x : Nibble) : List Byte := s.v.toList.take (x.toNat + 1)

/-- The registers with V[i] <- MEM[(I + i) mod 4096] for i in 0..X (44_index_memory R185). -/
def State.loadedRegs (s : State) (x : Nibble) : Vector Byte 16 :=
  Vector.ofFn fun k => if k.val ≤ x.toNat then s.memRead (effAddr s.i k.val) else s.v[k]

/-- The sprite's column at the origin, V[X] mod 64 (42_display R162, R163). -/
def State.originX (s : State) (x : Nibble) : Nat := (s.readV x).toNat % Config.fbWidth

/-- The sprite's row at the origin, V[Y] mod 32 (42_display R162, R163). -/
def State.originY (s : State) (y : Nibble) : Nat := (s.readV y).toNat % Config.fbHeight

/-- Row `r` of the sprite: the byte at (I + r) mod 4096 (42_display R165). -/
def State.spriteRow (s : State) (r : Nat) : Byte := s.memRead (effAddr s.i r)

/-- Where a pixel at column `px`, row `py` lands under Quirk B (42_display R163): reduced modulo the grid with QB = 1;
with QB = 0 dropped, `none`, when it is outside. -/
def placePixel (qb : Bool) (px py : Nat) : Option (Nat × Nat) :=
  if qb then some (px % Config.fbWidth, py % Config.fbHeight)
  else if px < Config.fbWidth ∧ py < Config.fbHeight then some (px, py)
  else none

end Sys2Proof.Machine
end

