-- ==== Sys2Proof/Machine/Flags.lean ====
section
/-! DEFINITION. The flag computations and the write of a result with its flag (10_state R22, R23; 41_alu R152, R153). -/

namespace Sys2Proof.Machine

/-- VF's value for a flag: 1 or 0 (10_state R22). -/
def flagByte (f : Bool) : Byte := if f then 1 else 0

/-- Carry: the unclamped sum exceeds 255 (41_alu R146, R152). -/
def carryFlag (a b : Byte) : Bool := a.toNat + b.toNat > 255

/-- Not-borrow: minuend ≥ subtrahend (41_alu R147, R149, R152). -/
def notBorrowFlag (minuend subtrahend : Byte) : Bool := minuend.toNat ≥ subtrahend.toNat

/-- The bit a right shift moves out (41_alu R148). -/
def rightShiftedOut (b : Byte) : Bool := b.getLsbD 0

/-- The bit a left shift moves out (41_alu R150). -/
def leftShiftedOut (b : Byte) : Bool := b.getLsbD 7

/-- VF <- the flag (10_state R22). -/
def State.setFlag (s : State) (f : Bool) : State := s.writeV Config.flagReg (flagByte f)

/-- V[X] <- result first, VF <- flag second: with X = 15 the flag stays and the result is lost (10_state R23, 41_alu R153,
decision D6). Both are computed by the caller from the values read before any write. -/
def State.writeResultFlag (s : State) (x : Nibble) (result : Byte) (f : Bool) : State :=
  (s.writeV x result).setFlag f

end Sys2Proof.Machine
end

