-- ==== Sys2Proof/Machine/Alu.lean ====
section
/-! DEFINITION. Register load, arithmetic, logic, shift, random (41_alu). Operands are read before anything is written
(R153). -/

namespace Sys2Proof.Machine

/-- LD Vx, NN (R140). -/
def execLdImm (x : Nibble) (nn : Byte) (s : State) : Result := .next (s.writeV x nn)

/-- ADD Vx, NN (R141): modulo 256, no flag. -/
def execAddImm (x : Nibble) (nn : Byte) (s : State) : Result := .next (s.writeV x (s.readV x + nn))

/-- LD Vx, Vy (R142). -/
def execLdReg (x y : Nibble) (s : State) : Result := .next (s.writeV x (s.readV y))

/-- OR Vx, Vy (R143): no flag. -/
def execOrReg (x y : Nibble) (s : State) : Result := .next (s.writeV x (s.readV x ||| s.readV y))

/-- AND Vx, Vy (R144): no flag. -/
def execAndReg (x y : Nibble) (s : State) : Result := .next (s.writeV x (s.readV x &&& s.readV y))

/-- XOR Vx, Vy (R145): no flag. -/
def execXorReg (x y : Nibble) (s : State) : Result := .next (s.writeV x (s.readV x ^^^ s.readV y))

/-- ADD Vx, Vy (R146): VF = carry. -/
def execAddReg (x y : Nibble) (s : State) : Result :=
  let a := s.readV x
  let b := s.readV y
  .next (s.writeResultFlag x (a + b) (carryFlag a b))

/-- SUB Vx, Vy (R147): Vx - Vy, VF = not-borrow. -/
def execSub (x y : Nibble) (s : State) : Result :=
  let a := s.readV x
  let b := s.readV y
  .next (s.writeResultFlag x (a - b) (notBorrowFlag a b))

/-- SHR Vx, Vy (R148): VF = the bit shifted out. -/
def execShr (x y : Nibble) (s : State) : Result :=
  let b := s.shiftSource x y
  .next (s.writeResultFlag x (b >>> 1) (rightShiftedOut b))

/-- SUBN Vx, Vy (R149): Vy - Vx, VF = not-borrow. -/
def execSubn (x y : Nibble) (s : State) : Result :=
  let a := s.readV x
  let b := s.readV y
  .next (s.writeResultFlag x (b - a) (notBorrowFlag b a))

/-- SHL Vx, Vy (R150): VF = the bit shifted out. -/
def execShl (x y : Nibble) (s : State) : Result :=
  let b := s.shiftSource x y
  .next (s.writeResultFlag x (b <<< 1) (leftShiftedOut b))

/-- RND Vx, NN (R151): a free byte AND the immediate. -/
def execRnd (x : Nibble) (nn : Byte) (s : State) : Result :=
  .next (s.takeDraw.writeV x (s.nextRandomByte &&& nn))

end Sys2Proof.Machine
end

