-- ==== Sys2Proof/Machine/Display.lean ====
section
/-! DEFINITION. CLS, DRW and the collision detector (42_display). -/

namespace Sys2Proof.Machine

/-- CLS (R161). Bits 11:8 of the word take no part (30_encoding R99). -/
def execCls (_x : Nibble) (s : State) : Result := .next (s.setFb Framebuffer.blank)

/-- One 1-bit of a sprite aimed at column `px`, row `py` (R162): the collision test before the XOR; a dropped pixel is
neither tested nor drawn (R163). The pair is the framebuffer so far and whether a drawn bit has met a set pixel. -/
def drawBit (qb : Bool) (px py : Nat) (d : Framebuffer × Bool) : Framebuffer × Bool :=
  match placePixel qb px py with
  | some (x, y) => (d.1.toggle y x, d.2 || d.1.pixel y x)
  | none => d

/-- One sprite row (R162, R165): column offset c is bit 7 - c, and only 1-bits are drawn. -/
def drawRow (qb : Bool) (x0 py : Nat) (b : Byte) (d : Framebuffer × Bool) : Framebuffer × Bool :=
  (List.range 8).foldl (fun d c => if b.getLsbD (7 - c) then drawBit qb (x0 + c) py d else d) d

/-- The rows of a sprite from the top (R162, R165): row r is drawn at row y0 + r. -/
def drawSprite (qb : Bool) (x0 y0 : Nat) (row : Nat → Byte) (n : Nat) (d : Framebuffer × Bool) : Framebuffer × Bool :=
  (List.range n).foldl (fun d r => drawRow qb x0 (y0 + r) (row r) d) d

/-- DRW Vx, Vy, N (R162): the origin is latched before VF is written (R166, decision D7); VF is 0 unless a drawn bit
collided (R164); I and memory are not changed. -/
def execDrw (x y n : Nibble) (s : State) : Result :=
  let d := drawSprite s.quirks.qb (s.originX x) (s.originY y) s.spriteRow n.toNat (s.fb, false)
  .next ((s.setFb d.1).setFlag d.2)

end Sys2Proof.Machine
end

