-- ==== Sys2Proof/Machine/IndexMemory.lean ====
section
/-! DEFINITION. The index register, loads and stores (44_index_memory). -/

namespace Sys2Proof.Machine

/-- LD I, NNN (R180). -/
def execLdI (nnn : Addr) (s : State) : Result := .next (s.setI nnn.toNat)

/-- ADD I, Vx (R181): modulo 4096, no flag. -/
def execAddI (x : Nibble) (s : State) : Result := .next (s.setI (s.i.toNat + (s.readV x).toNat))

/-- LD F, Vx (R182). An invalid digit is reported and I keeps its value. -/
def execLdF (x : Nibble) (s : State) : Result :=
  let d := s.readV x
  if validIndex d then .next (s.setI (glyphAddr d))
  else .next (s.raise .invalidDigit (encode (.ldF x)) d)

/-- LD B, Vx (R183): three bytes at I, I + 1, I + 2; I keeps its value. -/
def execLdB (x : Nibble) (s : State) : Result := .next (s.storeBytes s.i 0 (bcdDigits (s.readV x)))

/-- The update of I after a bulk transfer of V[0..X] (10_state R38, R184, R185): I + X + 1 with QC = 0, unchanged with
QC = 1. -/
def State.bulkIndex (s : State) (x : Nibble) : State :=
  if s.quirks.qc then s else s.setI (s.i.toNat + x.toNat + 1)

/-- LD [I], Vx (R184): V[0..X] to memory from I upward. -/
def execStoreRegs (x : Nibble) (s : State) : Result :=
  .next ((s.storeBytes s.i 0 (s.lowRegs x)).bulkIndex x)

/-- LD Vx, [I] (R185): V[0..X] from memory from I upward. -/
def execLoadRegs (x : Nibble) (s : State) : Result := .next ({ s with v := s.loadedRegs x }.bulkIndex x)

end Sys2Proof.Machine
end

