-- ==== Sys2Proof/Machine/Flow.lean ====
section
/-! DEFINITION. Control transfer (40_flow). Every meaning starts after the common cycle: PC is already a + 2 (R129). -/

namespace Sys2Proof.Machine

/-- Skip the next instruction when the condition holds (40_flow R129). -/
def State.skipIf (s : State) (c : Bool) : State := if c then s.advancePc else s

/-- SYS NNN (R120): an informational event and nothing else. -/
def execSys (nnn : Addr) (s : State) : Result := .next (s.raise .machineSubroutine (encode (.sys nnn)) 0)

/-- RET (R121). SP above 16 addresses no entry: log entry 8. -/
def execRet (x : Nibble) (s : State) : Result :=
  if s.sp = 0 then .next (s.raise .stackUnderflow (encode (.ret x)) 0)
  else if h : s.sp.toNat - 1 < 16 then .next (s.pop h)
  else .fault .stackPointerOutOfRange

/-- JP NNN (R122). -/
def execJp (nnn : Addr) (s : State) : Result := .next (s.setPc nnn.toNat)

/-- CALL NNN (R123). The pushed value is PC, a + 2. SP above 16 addresses no entry: log entry 8. -/
def execCall (nnn : Addr) (s : State) : Result :=
  if s.sp.toNat = Config.stackDepth then .next (s.raise .stackOverflow (encode (.call nnn)) 0)
  else if h : s.sp.toNat < 16 then .next ((s.push s.pc h).setPc nnn.toNat)
  else .fault .stackPointerOutOfRange

/-- SE Vx, NN (R125). -/
def execSeImm (x : Nibble) (nn : Byte) (s : State) : Result := .next (s.skipIf (s.readV x == nn))

/-- SNE Vx, NN (R126). -/
def execSneImm (x : Nibble) (nn : Byte) (s : State) : Result := .next (s.skipIf (s.readV x != nn))

/-- SE Vx, Vy (R127). -/
def execSeReg (x y : Nibble) (s : State) : Result := .next (s.skipIf (s.readV x == s.readV y))

/-- SNE Vx, Vy (R128). -/
def execSneReg (x y : Nibble) (s : State) : Result := .next (s.skipIf (s.readV x != s.readV y))

/-- JP V0, NNN (R124). -/
def execJpV0 (nnn : Addr) (s : State) : Result := .next (s.setPc (nnn.toNat + (s.readV 0).toNat))

end Sys2Proof.Machine
end

