-- ==== Sys2Proof/Machine/KeysTimers.lean ====
section
/-! DEFINITION. Keypad and timer instructions (43_keys_timers). -/

namespace Sys2Proof.Machine

/-- SKP Vx (R170). An invalid index is reported and never skips. -/
def execSkp (x : Nibble) (s : State) : Result :=
  let k := s.readV x
  if validIndex k then .next (s.skipIf (s.keyDown k.toNat))
  else .next (s.raise .invalidKeyIndex (encode (.skp x)) k)

/-- SKNP Vx (R171). An invalid index is reported and never skips. -/
def execSknp (x : Nibble) (s : State) : Result :=
  let k := s.readV x
  if validIndex k then .next (s.skipIf (!s.keyDown k.toNat))
  else .next (s.raise .invalidKeyIndex (encode (.sknp x)) k)

/-- LD Vx, K (R172): with no key down PC goes back to the instruction itself; else the least key that is down. -/
def execLdVxK (x : Nibble) (s : State) : Result :=
  match s.leastKeyDown with
  | none => .next s.rewindPc
  | some k => .next (s.writeV x (BitVec.ofNat 8 k))

/-- LD Vx, DT (R173). -/
def execLdVxDt (x : Nibble) (s : State) : Result := .next (s.writeV x s.dt)

/-- LD DT, Vx (R174). ACC is not reset. -/
def execLdDtVx (x : Nibble) (s : State) : Result := .next (s.setDt (s.readV x))

/-- LD ST, Vx (R175). ACC is not reset. -/
def execLdStVx (x : Nibble) (s : State) : Result := .next (s.setSt (s.readV x))

end Sys2Proof.Machine
end

