-- ==== Sys2Proof/Machine/Step.lean ====
section
/-! DEFINITION. One slot of a tick (30_encoding R95): fetch, advance PC, decode, then execute or report. -/

namespace Sys2Proof.Machine

/-- One instruction execution (30_encoding R95). RUN and K decide in `tick` whether a slot runs at all (60_exceptions
R220); the slot itself does not look at them. Log entry 1. -/
def step (s : State) : Host.Outcome State Fault Refusal :=
  match decode s.fetchWord with
  | .recognised i => exec i s.advancePc
  | .unrecognised w => .next (s.advancePc.reportUnrecognized w)

/-- `s` with the instruction whose bits are `w` (numbered as spec/opcode_table.json numbers them, the bits above `nbits`
zero) stored where the next step fetches; nothing else changes. Log entry 2. -/
def State.withFetchWord (s : State) (nbits w : Nat) : State := s.storeWordAtPc (BitVec.ofNat 16 (w % 2 ^ nbits))

end Sys2Proof.Machine
end

