-- ==== Sys2Proof/Machine/Scheduler.lean ====
section
/-! DEFINITION. The execution scheduler: the tick, its timer phase and the run states (60_exceptions R220 to R229), and the
sound output (R232). -/

namespace Sys2Proof.Machine

/-- A timer lowered by `n` quanta, down to a floor of 0 (60_exceptions R220, R224). -/
def countDown (t : Byte) (n : Nat) : Byte := BitVec.ofNat 8 (t.toNat - min t.toNat n)

/-- Phase 2 of a tick (60_exceptions R220, R222 to R224), in every run state: whole quanta lower both timers, the rest of the
real time stays in ACC. -/
def State.timerPhase (s : State) (p : Params) (elapsed : Nat) : State :=
  let total := s.acc + elapsed
  let n := total / p.quantum
  { s with acc := total % p.quantum, dt := countDown s.dt n, st := countDown s.st n }

/-- RUN <- r. -/
def State.setRun (s : State) (r : RunState) : State := { s with run := r }

/-- What is done with the next state; a fault or a refusal stays what it is. -/
def Result.andThen (r : Result) (f : State → Result) : Result :=
  match r with
  | .next s => f s
  | .fault e => .fault e
  | .refused e => .refused e

/-- `k` slots, one after the other (60_exceptions R221). -/
def slots : Nat → State → Result
  | 0, s => .next s
  | k + 1, s => Result.andThen (step s) (slots k)

/-- Phase 1 of a tick (60_exceptions R220, R221, R228): K slots when Running; one when PausedStep and K ≥ 1, which then is
Paused; none when Paused. -/
def instructionPhase (k : Nat) (s : State) : Result :=
  match s.run with
  | .running => slots k s
  | .pausedStep => if k ≥ 1 then Result.andThen (step s) (fun t => .next (t.setRun .paused)) else .next s
  | .paused => .next s

/-- Tick(K, elapsed) (60_exceptions R220) of a machine with the parameters `p`: the instruction phase, then the timer phase. -/
def tick (p : Params) (k elapsed : Nat) (s : State) : Result :=
  Result.andThen (instructionPhase k s) (fun t => .next (t.timerPhase p elapsed))

/-- RUN after PauseToggle (60_exceptions R226, decision D15). -/
def RunState.toggled : RunState → RunState
  | .running => .paused
  | .paused => .running
  | .pausedStep => .running

/-- RUN after StepRequest (60_exceptions R227, decision D15). -/
def RunState.stepRequested : RunState → RunState
  | .running => .running
  | .paused => .pausedStep
  | .pausedStep => .pausedStep

/-- SOUND_ON (60_exceptions R232, decision D20): a level, a function of state. -/
def State.soundOn (s : State) : Bool := s.st != 0

end Sys2Proof.Machine
end

