-- ==== Sys2Proof/Machine/HostOps.lean ====
section
/-! DEFINITION. The host's atomic operations (70_reset R250 to R264; 00_scope R9). None is part of `step`: the host performs
them between ticks. Log entry 13. -/

namespace Sys2Proof.Machine

/-- The machine right after reset with the parameters `p` (10_state R43, 70_reset R250): QUIRK_RESET in the switches and FONT_ROM
at 0x000..0x04F, everything else as in `State.reset`. -/
def State.resetWith (p : Params) : State :=
  { State.reset with quirks := p.quirkReset }.storeBytes (BitVec.ofNat 16 Config.fontBase) 0 p.fontRom.toList

/-- Reset (70_reset R250): every piece of the hardware's state at its reset value, whatever it was. The model's own draw
counter is not rewound, so the bytes drawn afterwards are free values again (log entry 4). -/
def State.hostReset (s : State) (p : Params) : State := { State.resetWith p with draws := s.draws }

/-- LoadProgram(bytes) (70_reset R256, R257): the image at 0x200 upward; more than 3584 bytes are refused and nothing is
copied. -/
def loadProgram (image : List Byte) (s : State) : Result :=
  if image.length ≤ Config.progMax then .next (s.storeBytes (BitVec.ofNat 16 Config.progBase) 0 image)
  else .refused .loadTooLarge

/-- SetKey(k, down) (70_reset R258). -/
def State.setKey (s : State) (k : Nibble) (down : Bool) : State := { s with keys := s.keys.set k.toNat down k.isLt }

/-- SetQuirks(a, b, c) (70_reset R259). -/
def State.setQuirks (s : State) (a b c : Bool) : State := { s with quirks := { qa := a, qb := b, qc := c } }

/-- PauseToggle() (70_reset R260). -/
def State.pauseToggle (s : State) : State := s.setRun s.run.toggled

/-- StepRequest() (70_reset R261). -/
def State.stepRequest (s : State) : State := s.setRun s.run.stepRequested

/-- ReadFramebuffer() (70_reset R262): the 2048 bits, row by row; the state is not changed. -/
def State.readFramebuffer (s : State) : List (List Bool) :=
  (List.range Config.fbHeight).map fun y => (List.range Config.fbWidth).map fun x => s.fb.pixel y x

/-- The host operations that may change the state (70_reset R265). ReadState (R263) is the state itself. -/
inductive HostOp where
  | reset
  | loadProgram (image : List Byte)
  | setKey (k : Nibble) (down : Bool)
  | setQuirks (a b c : Bool)
  | pauseToggle
  | stepRequest
  | tick (k elapsed : Nat)
  deriving DecidableEq, Repr

/-- One whole host operation (00_scope R9) on a machine with the parameters `p` (R8). -/
def applyHostOp (p : Params) : HostOp → State → Result
  | .reset, s => .next (s.hostReset p)
  | .loadProgram image, s => loadProgram image s
  | .setKey k down, s => .next (s.setKey k down)
  | .setQuirks a b c, s => .next (s.setQuirks a b c)
  | .pauseToggle, s => .next s.pauseToggle
  | .stepRequest, s => .next s.stepRequest
  | .tick k elapsed, s => tick p k elapsed s

/-- A session: whole host operations, one after the other (00_scope R9, 70_reset R265). LoadTooLarge ends it with the refusal:
the host aborts (R257, R265 duty 3). Whether the host may Reset and go on after the abort the spec leaves open (R265 liberty
7); that no later Reset follows in the same session is the model's choice, log entry 16. -/
def session (p : Params) : List HostOp → State → Result
  | [], s => .next s
  | op :: rest, s => Result.andThen (applyHostOp p op s) (session p rest)

end Sys2Proof.Machine
end

