-- ==== Sys2Proof/Safety.lean ====
section
/-! DEFINITION. The terms claims are stated in: the invariant of the machine, what an instruction leaves unchanged, what
counts as an error, the order of operations the host owes, and the two tables of the spec that claims compare the machine
with (the PC outcomes of 10_state R27, the pixels a sprite covers). -/

namespace Sys2Proof.Machine

/-- The invariant: memory is in canonical form; PC, I and every stacked return address are memory addresses (10_state R24,
R26, R29); SP is at most 16 (R28); ACC is below the QUANTUM of the parameters `p` (R40). -/
structure State.Inv (s : State) (p : Params) : Prop where
  mem : Memory.wf s.mem
  pc : s.pc.toNat < 4096
  i : s.i.toNat < 4096
  sp : s.sp.toNat ≤ 16
  stack : ∀ a ∈ s.stack.toList, a.toNat < 4096
  acc : s.acc < p.quantum

/-- What an instruction may write, for a frame: the general registers named by `regs`, and the pieces of state set to
true. Memory is `mem`: a statement about a storing instruction says which bytes. -/
structure Writes where
  regs : Nibble → Prop := fun _ => False
  mem : Bool := false
  i : Bool := false
  pc : Bool := false
  sp : Bool := false
  stack : Bool := false
  dt : Bool := false
  st : Bool := false
  fb : Bool := false
  diag : Bool := false
  draws : Bool := false

/-- From `s` to `t` nothing changed but what `w` names. No instruction writes KEYS, QUIRKS, RUN or ACC (10_state R42), so
no `w` can name them. -/
structure Frame (w : Writes) (s t : State) : Prop where
  regs : ∀ r, ¬ w.regs r → t.readV r = s.readV r
  mem : w.mem = false → ∀ a, Memory.read t.mem a = Memory.read s.mem a
  i : w.i = false → t.i = s.i
  pc : w.pc = false → t.pc = s.pc
  sp : w.sp = false → t.sp = s.sp
  stack : w.stack = false → t.stack = s.stack
  dt : w.dt = false → t.dt = s.dt
  st : w.st = false → t.st = s.st
  fb : w.fb = false → t.fb = s.fb
  diag : w.diag = false → t.diag = s.diag
  draws : w.draws = false → t.draws = s.draws
  keys : t.keys = s.keys
  quirks : t.quirks = s.quirks
  run : t.run = s.run
  acc : t.acc = s.acc

/-- Codes 1 to 5 are errors, code 6 is information (60_exceptions R207). -/
def Event.isError (e : Event) : Bool := e.kind != .machineSubroutine

/-- No error recorded (60_exceptions R207). -/
def State.noError (s : State) : Bool := s.diag.all fun e => !e.isError

/-- How far the host has come with what it owes (70_reset R253, R265): nothing done, reset, loaded, or ticked. -/
inductive HostPhase where
  | off
  | fresh
  | loaded
  | ticked
  deriving DecidableEq, Repr

/-- The phase after an operation, `none` where the host breaks a duty (70_reset R253, R265 duty 2): Reset comes before
anything else, LoadProgram at most once and before the first Tick. Whether "once" and "first" count in a whole launch or anew
after each Reset the spec leaves open; that every Reset leads back to `fresh`, so that one LoadProgram may follow it, is the
model's choice (DESIGN CHOICE, log entry 18). R253 names SetQuirks and SetKey after LoadProgram, R259 lets them come at any time
between ticks; that they, PauseToggle and StepRequest may also stand between Reset and LoadProgram is the model's choice (DESIGN
CHOICE, log entry 19). -/
def HostPhase.after : HostPhase → HostOp → Option HostPhase
  | _, .reset => some .fresh
  | .off, _ => none
  | .fresh, .loadProgram _ => some .loaded
  | _, .loadProgram _ => none
  | _, .tick _ _ => some .ticked
  | p, _ => some p

/-- The host keeps its duties of order over a session (70_reset R265 duty 2). -/
def dutiful : HostPhase → List HostOp → Bool
  | _, [] => true
  | p, op :: rest =>
    match p.after op with
    | some q => dutiful q rest
    | none => false

/-- The end of a run, for claims (70_reset R273, decision D26): PC is at a self-jump, `JP a` at address a. It is no notion of the
hardware: nothing in the machine reads it, and a finished machine goes on taking slots. Log entry 17. -/
def State.finished (s : State) : Bool :=
  decide (s.pc.toNat < 4096) && s.fetchWord == encode (.jp (s.pc.setWidth 12))

/-- `a + d` modulo 4096, as a word. -/
def pcPlus (a : Word) (d : Nat) : Word := BitVec.ofNat 16 ((a.toNat + d) % 4096)

/-- The table of 10_state R27: the PC an instruction fetched at `s.pc` leaves, from the state `s` before its fetch. -/
def pcAfter (s : State) : Instr → Word
  | .seImm x nn => if s.readV x = nn then pcPlus s.pc 4 else pcPlus s.pc 2
  | .sneImm x nn => if s.readV x ≠ nn then pcPlus s.pc 4 else pcPlus s.pc 2
  | .seReg x y => if s.readV x = s.readV y then pcPlus s.pc 4 else pcPlus s.pc 2
  | .sneReg x y => if s.readV x ≠ s.readV y then pcPlus s.pc 4 else pcPlus s.pc 2
  | .skp x => if s.keys[(s.readV x).toNat]? = some true then pcPlus s.pc 4 else pcPlus s.pc 2
  | .sknp x => if s.keys[(s.readV x).toNat]? = some false then pcPlus s.pc 4 else pcPlus s.pc 2
  | .jp nnn => nnn.setWidth 16
  | .call nnn => if s.sp.toNat = 16 then pcPlus s.pc 2 else nnn.setWidth 16
  | .jpV0 nnn => pcPlus (nnn.setWidth 16) (s.readV 0).toNat
  | .ret _ => if s.sp.toNat = 0 then pcPlus s.pc 2 else s.stack[s.sp.toNat - 1]?.getD 0
  | .ldVxK _ => if true ∈ s.keys.toList then pcPlus s.pc 2 else s.pc
  | _ => pcPlus s.pc 2

/-- A sprite of `n` rows with its origin at (x0, y0) has a 1-bit that lands on pixel (x, y) (42_display R162, R163, R165):
row r at row y0 + r, bit 7 - c at column x0 + c, both modulo the grid when `qb`. -/
def spriteCovers (qb : Bool) (x0 y0 : Nat) (row : Nat → Byte) (n y x : Nat) : Prop :=
  ∃ r < n, ∃ c < 8, (row r).getLsbD (7 - c) = true ∧
    if qb then (y0 + r) % 32 = y ∧ (x0 + c) % 64 = x else y0 + r = y ∧ x0 + c = x

/-- The words of the table of 30_encoding R100, by the group selector, the low nibble and the low byte of the word's number. -/
def unrecognisedWord (w : Word) : Prop :=
  (w.toNat / 4096 = 0x5 ∧ w.toNat % 16 ≠ 0x0) ∨
  (w.toNat / 4096 = 0x8 ∧ w.toNat % 16 ∈ [0x8, 0x9, 0xA, 0xB, 0xC, 0xD, 0xF]) ∨
  (w.toNat / 4096 = 0x9 ∧ w.toNat % 16 ≠ 0x0) ∨
  (w.toNat / 4096 = 0xE ∧ w.toNat % 256 ∉ [0x9E, 0xA1]) ∨
  (w.toNat / 4096 = 0xF ∧ w.toNat % 256 ∉ [0x07, 0x0A, 0x15, 0x18, 0x1E, 0x29, 0x33, 0x55, 0x65])

/-- The recoverable errors of 60_exceptions R201 (2): what the next instruction of `s` meets. -/
def errorCondition (s : State) : Prop :=
  match decode s.fetchWord with
  | .unrecognised _ => True
  | .recognised (.call _) => s.sp.toNat = 16
  | .recognised (.ret _) => s.sp.toNat = 0
  | .recognised (.ldF x) => 15 < (s.readV x).toNat
  | .recognised (.skp x) => 15 < (s.readV x).toNat
  | .recognised (.sknp x) => 15 < (s.readV x).toNat
  | .recognised _ => False

/-- `t` is `s` after the timer phase of a tick (60_exceptions R220, R223, R224): both timers lowered by the whole quanta of
ACC + elapsed, each to a floor of 0, the rest kept in ACC, and nothing else changed. -/
structure TimersAdvanced (p : Params) (elapsed : Nat) (s t : State) : Prop where
  acc : t.acc = (s.acc + elapsed) % p.quantum
  dt : t.dt.toNat = s.dt.toNat - (s.acc + elapsed) / p.quantum
  st : t.st.toNat = s.st.toNat - (s.acc + elapsed) / p.quantum
  rest : t = { s with acc := t.acc, dt := t.dt, st := t.st }

/-- Two states that differ at most in the call-stack entries at and above SP (10_state R30). -/
structure SameBelowSp (s t : State) : Prop where
  rest : t = { s with stack := t.stack }
  entries : ∀ k (hk : k < 16), k < s.sp.toNat → t.stack[k] = s.stack[k]

end Sys2Proof.Machine
end

