-- ==== Sys2Proof/Certificates/Slice0/Obligations.lean ====
section
/-! DEFINITION. The statements for the provers, each from numbered rules of spec/. A statement about `exec` speaks of an
instruction as the dispatcher runs it: PC has already advanced to a + 2 (30_encoding R95). Its first clause is the rule's
own encoding. Where a clause rests on a decision D<n> of the spec or on a log entry, the docstring says so. -/

open Sys2Proof Sys2Proof.Machine

/-! ### Encoding, decoding, fetch -/

/-- The fields stand where R92 puts them, and each way of putting them together again gives the word (R93). -/
def Obligations.FieldsRecombineToTheWord : Prop :=
  ∀ w : Word,
    (splitFields w).g.toNat = w.toNat / 4096 ∧ (splitFields w).x.toNat = w.toNat / 256 % 16 ∧
    (splitFields w).y.toNat = w.toNat / 16 % 16 ∧ (splitFields w).n.toNat = w.toNat % 16 ∧
    (splitFields w).nn.toNat = w.toNat % 256 ∧ (splitFields w).nnn.toNat = w.toNat % 4096 ∧
    (splitFields w).g ++ (splitFields w).x ++ (splitFields w).y ++ (splitFields w).n = w ∧
    (splitFields w).g ++ (splitFields w).nnn = w ∧
    (splitFields w).g ++ (splitFields w).x ++ (splitFields w).nn = w

/-- Decode and encode agree: every well-formed instruction is read back from its word, whatever its operands. -/
def Obligations.DecodeOfEncodeIsIdentity : Prop :=
  ∀ i : Instr, i.wellFormed = true → decode (encode i) = .recognised i

/-- The other direction: a recognised word is the word of the instruction read from it, which is well formed. The ignored
bits 11:8 of CLS and RET (R99) are kept, so a diagnostic record holds the whole word (log entry 10). -/
def Obligations.EncodeOfDecodeIsIdentity : Prop :=
  ∀ (w : Word) (i : Instr), decode w = .recognised i → encode i = w ∧ i.wellFormed = true

/-- A word selects a row of R98 iff (w and mask) = match (row 1 excluding 0xE0 and 0xEE), and that is the row of the
instruction decoded; so no two rows overlap (R102). -/
def Obligations.DecodeSelectsTheRowByMaskAndMatch : Prop :=
  ∀ (w : Word), ∀ row ∈ opcodeRows,
    passesRow w row = true ↔ ∃ i, decode w = .recognised i ∧ i.rowNumber = row.1

/-- The words of R100's table, and no others, are unrecognised. -/
def Obligations.UnrecognisedWordsAreThoseListed : Prop :=
  ∀ w : Word, (unrecognisedWord w → decode w = .unrecognised w) ∧
    (¬ unrecognisedWord w → ∃ i, decode w = .recognised i)

/-- Words written out bit by bit from R98 decode to the instruction they stand for, one or more in each family. -/
def Obligations.SampleWordsDecode : Prop :=
  decode 0b0010001000010000 = .recognised (.call 0x210) ∧
  decode 0b0000101011101110 = .recognised (.ret 0xA) ∧
  decode 0b0011101001000010 = .recognised (.seImm 0xA 0x42) ∧
  decode 0b1000101010110101 = .recognised (.sub 0xA 0xB) ∧
  decode 0b1000001000011110 = .recognised (.shl 0x2 0x1) ∧
  decode 0b1101011110100101 = .recognised (.drw 0x7 0xA 0x5) ∧
  decode 0b1110001110100001 = .recognised (.sknp 0x3) ∧
  decode 0b1111001100001010 = .recognised (.ldVxK 0x3) ∧
  decode 0b1111001101010101 = .recognised (.storeRegs 0x3) ∧
  decode 0b0101000100100001 = .unrecognised 0x5121

/-- One slot (R95): the word at PC is fetched big-endian, its second address modulo 4096 (R91), PC advances by 2 modulo 4096,
and then the instruction decoded is executed, or the word is reported as unrecognised. -/
def Obligations.StepRunsTheFetchedInstruction : Prop :=
  ∀ (s : State) (hi lo : Byte), Memory.read s.mem (s.pc.toNat % 4096) = hi →
    Memory.read s.mem ((s.pc.toNat + 1) % 4096) = lo →
    (∀ i, decode (hi ++ lo) = .recognised i → step s = exec i { s with pc := pcPlus s.pc 2 }) ∧
    (∀ w, decode (hi ++ lo) = .unrecognised w → ∃ t, step s = .next t ∧
      t = { s with pc := pcPlus s.pc 2, diag := s.diag ++ [⟨.unrecognizedOpcode, hi ++ lo, 0⟩] })

/-- UnrecognizedOpcode, code 1: every word of R100's table, fetched from anywhere, is reported and is a no-op. -/
def Obligations.UnrecognisedWordIsReportedNoOp : Prop :=
  EventKind.unrecognizedOpcode.code = 1 ∧
  ∀ s : State, unrecognisedWord s.fetchWord →
    step s = .next { s with pc := pcPlus s.pc 2, diag := s.diag ++ [⟨.unrecognizedOpcode, s.fetchWord, 0⟩] }

/-! ### The whole machine -/

/-- The state after reset meets the invariant, at the reference parameters and at any others that are valid. -/
def Obligations.ResetStateMeetsInvariant : Prop :=
  State.reset.Inv .reference ∧ ∀ p : Params, p.valid → (State.resetWith p).Inv p

/-- Every step keeps the invariant: memory canonical, PC, I and the stacked addresses below 4096, SP at most 16, ACC below
QUANTUM. -/
def Obligations.EveryStepKeepsInvariant : Prop :=
  ∀ (p : Params) (s t : State), s.Inv p → step s = .next t → t.Inv p

/-- Every host operation, a tick of any K and any elapsed time among them, keeps the invariant. -/
def Obligations.EveryHostOperationKeepsInvariant : Prop :=
  ∀ (p : Params) (op : HostOp) (s t : State), s.Inv p → applyHostOp p op s = .next t → t.Inv p

/-- Nothing stops the machine: from every state that meets the invariant, every sequence of host operations, in which no
image is larger than 3584 bytes, runs to its end, whatever memory holds. -/
def Obligations.NoSessionHalts : Prop :=
  ∀ (p : Params) (ops : List HostOp) (s : State), s.Inv p →
    (∀ image, HostOp.loadProgram image ∈ ops → image.length ≤ 3584) →
    ∃ t, session p ops s = .next t ∧ t.Inv p

/-- An instruction that raises an event appends one record, which carries the word that raised it, and has changed nothing
else but PC, which is a + 2 (R210). -/
def Obligations.RaisingInstructionChangesOnlyPcAndDiag : Prop :=
  ∀ s t : State, step s = .next t → t.diag = s.diag ∨
    ∃ kind value, t = { s with pc := pcPlus s.pc 2, diag := s.diag ++ [⟨kind, s.fetchWord, value⟩] }

/-- The error taxonomy is closed (R201): an error is recorded exactly when a word is unrecognised, a CALL meets a full stack, a
RET an empty one, or LD F, SKP or SKNP a register above 15. SYS records no error (R207). -/
def Obligations.ErrorsAreExactlyTheRecoverableOnes : Prop :=
  ∀ s t : State, s.noError = true → step s = .next t → (t.noError = false ↔ errorCondition s)

/-- No instruction writes KEYS, QUIRKS, RUN or ACC, which only the host and the scheduler write (10_state R42). -/
def Obligations.NoInstructionWritesHostState : Prop :=
  ∀ s t : State, step s = .next t →
    t.keys = s.keys ∧ t.quirks = s.quirks ∧ t.run = s.run ∧ t.acc = s.acc

/-- The core writers of each piece of state, by row number of R98 (10_state R42). -/
def Obligations.OnlyTheListedInstructionsWriteEachPiece : Prop :=
  ∀ (i : Instr) (s t : State), exec i s = .next t →
    (t.mem ≠ s.mem → i.rowNumber ∈ [33, 34]) ∧
    ((∃ r, t.readV r ≠ s.readV r) →
      i.rowNumber ∈ [9, 10, 11, 12, 13, 14, 15, 16, 17, 18, 19, 23, 24, 27, 28, 35]) ∧
    (t.i ≠ s.i → i.rowNumber ∈ [21, 31, 32, 34, 35]) ∧
    (t.sp ≠ s.sp ∨ t.stack ≠ s.stack → i.rowNumber ∈ [3, 5]) ∧
    (t.dt ≠ s.dt → i.rowNumber = 29) ∧ (t.st ≠ s.st → i.rowNumber = 30) ∧
    (t.fb ≠ s.fb → i.rowNumber ∈ [2, 24]) ∧
    (t.diag ≠ s.diag → i.rowNumber ∈ [1, 3, 5, 25, 26, 32]) ∧ (t.draws ≠ s.draws → i.rowNumber = 23)

/-- VF is written by the six instructions of R22's table and by an instruction whose X field is 15 and whose destination is
V[X], and by no other. -/
def Obligations.OnlyTheListedInstructionsWriteVf : Prop :=
  ∀ (i : Instr) (s t : State), exec i s = .next t → t.readV 15 ≠ s.readV 15 →
    i.rowNumber ∈ [15, 16, 17, 18, 19, 24] ∨
    (i.rowNumber ∈ [9, 10, 11, 12, 13, 14, 23, 27, 28, 35] ∧ (splitFields (encode i)).x = 15)

/-- The table of R27: the PC every instruction leaves, from the address it was fetched from. -/
def Obligations.EveryInstructionLeavesPcAsTabled : Prop :=
  ∀ (p : Params) (s t : State), s.Inv p → step s = .next t →
    (∀ i, decode s.fetchWord = .recognised i → t.pc = pcAfter s i) ∧
    (∀ w, decode s.fetchWord = .unrecognised w → t.pc = pcPlus s.pc 2)

/-- The program cannot observe RUN, ACC or DIAG (60_exceptions R230, 10_state R40): a step from a state that differs in them
differs in them alone, and appends the same events. -/
def Obligations.StepDoesNotDependOnRunAccDiag : Prop :=
  ∀ (s t : State) (r : RunState) (a : Nat) (d : List Event), step s = .next t →
    step { s with run := r, acc := a, diag := d } =
      .next { t with run := r, acc := a, diag := d ++ t.diag.drop s.diag.length }

/-- What the stack entries at and above SP hold is never read (10_state R30, decision D23): states that agree below SP step to
states that agree below SP. -/
def Obligations.StackEntriesAboveSpAreNeverRead : Prop :=
  ∀ s s' t : State, SameBelowSp s s' → step s = .next t → ∃ t', step s' = .next t' ∧ SameBelowSp t t'

/-- The quirk switches are read by SHR, SHL, DRW, LD [I],Vx and LD Vx,[I] alone (10_state R38). -/
def Obligations.OnlyFiveInstructionsReadQuirks : Prop :=
  ∀ (i : Instr) (s t : State) (q : Quirks), i.rowNumber ∉ [17, 19, 24, 34, 35] → exec i s = .next t →
    exec i { s with quirks := q } = .next { t with quirks := q }

/-- MemWrite sets one byte, at the address modulo 4096, and changes nothing else (R64). -/
def Obligations.MemWriteSetsOneByte : Prop :=
  ∀ (s : State) (a b : Nat) (v : Byte), Memory.wf s.mem →
    (s.memWrite a v).memRead b = (if b % 4096 = a % 4096 then v else s.memRead b) ∧
    s.memWrite a v = { s with mem := (s.memWrite a v).mem }

/-! ### Control transfer -/

/-- SYS: an informational event, code 6, and nothing else (R120, R207). -/
def Obligations.SysOnlyReportsItself : Prop :=
  EventKind.machineSubroutine.code = 6 ∧
  ∀ (nnn : Addr) (s : State),
    (nnn.toNat % 256 ≠ 0xE0 → nnn.toNat % 256 ≠ 0xEE → decode (0x0#4 ++ nnn) = .recognised (.sys nnn)) ∧
    ∃ t, exec (.sys nnn) s = .next t ∧ t.diag = s.diag ++ [⟨.machineSubroutine, 0x0#4 ++ nnn, 0⟩] ∧
      Frame { diag := true } s t

/-- RET: with an empty stack an event, code 3, and nothing else; else SP goes down by one and PC is the entry popped, which
keeps its value (R121, R204; R30 and decision D23 for the slot). The write of PC is modulo 4096 (R26). -/
def Obligations.RetPopsOrReportsUnderflow : Prop :=
  EventKind.stackUnderflow.code = 3 ∧
  ∀ (x : Nibble) (s : State),
    decode (0x0#4 ++ x ++ 0xEE#8) = .recognised (.ret x) ∧
    (s.sp.toNat = 0 → ∃ t, exec (.ret x) s = .next t ∧
      t.diag = s.diag ++ [⟨.stackUnderflow, 0x0#4 ++ x ++ 0xEE#8, 0⟩] ∧ Frame { diag := true } s t) ∧
    (∀ k (hk : k < 16), s.sp.toNat = k + 1 → ∃ t, exec (.ret x) s = .next t ∧
      t.sp.toNat = k ∧ t.pc.toNat = (s.stack[k]).toNat % 4096 ∧ Frame { pc := true, sp := true } s t)

/-- CALL: with a full stack an event, code 2, and nothing else; else PC (the return address a + 2) goes to STACK[SP], SP goes
up by one and PC is NNN (R123, R203; R30 and decision D23 for the slot). -/
def Obligations.CallPushesOrReportsOverflow : Prop :=
  EventKind.stackOverflow.code = 2 ∧
  ∀ (nnn : Addr) (s : State),
    decode (0x2#4 ++ nnn) = .recognised (.call nnn) ∧
    (s.sp.toNat = 16 → ∃ t, exec (.call nnn) s = .next t ∧
      t.diag = s.diag ++ [⟨.stackOverflow, 0x2#4 ++ nnn, 0⟩] ∧ Frame { diag := true } s t) ∧
    (∀ k (hk : k < 16), s.sp.toNat = k → ∃ t, exec (.call nnn) s = .next t ∧
      t.stack[k] = s.pc ∧ (∀ j (hj : j < 16), j ≠ k → t.stack[j] = s.stack[j]) ∧
      t.sp.toNat = k + 1 ∧ t.pc.toNat = nnn.toNat ∧ Frame { pc := true, sp := true, stack := true } s t)

/-- The model's own stop (log entry 8): in a state whose SP is above 16, which the invariant rules out, CALL and RET fault. -/
def Obligations.CallAndRetFaultAboveSixteen : Prop :=
  ∀ (nnn : Addr) (x : Nibble) (s : State), 16 < s.sp.toNat →
    exec (.call nnn) s = .fault .stackPointerOutOfRange ∧ exec (.ret x) s = .fault .stackPointerOutOfRange

/-- A RET that finds the stack as a CALL left it returns to the instruction after the CALL, with the SP the CALL found. -/
def Obligations.RetReturnsAfterTheMatchingCall : Prop :=
  ∀ (nnn : Addr) (x : Nibble) (s : State), s.sp.toNat < 16 → s.pc.toNat < 4096 →
    ∃ t, exec (.call nnn) s = .next t ∧
      ∀ u : State, u.sp = t.sp → u.stack = t.stack →
        ∃ w, exec (.ret x) u = .next w ∧ w.pc = s.pc ∧ w.sp = s.sp

/-- JP NNN and JP V0, NNN: PC is NNN, and NNN + V0 modulo 4096 (R122, R124; that the offset is V0 is the spec's general-knowledge
passage G3, log entry 14). -/
def Obligations.JumpsSetPc : Prop :=
  ∀ (nnn : Addr) (s : State),
    decode (0x1#4 ++ nnn) = .recognised (.jp nnn) ∧
    decode (0xB#4 ++ nnn) = .recognised (.jpV0 nnn) ∧
    (∃ t, exec (.jp nnn) s = .next t ∧ t.pc.toNat = nnn.toNat ∧ Frame { pc := true } s t) ∧
    (∃ t, exec (.jpV0 nnn) s = .next t ∧ t.pc.toNat = (nnn.toNat + (s.readV 0).toNat) % 4096 ∧
      Frame { pc := true } s t)

/-- A jump to itself, the end of a run (70_reset R273, decision D26; log entry 17), leaves every piece of state as it is. -/
def Obligations.SelfJumpChangesNothing : Prop :=
  ∀ (nnn : Addr) (s : State), s.pc.toNat = nnn.toNat → s.fetchWord = 0x1#4 ++ nnn →
    s.finished = true ∧ step s = .next s

/-- The four skips on a comparison: PC goes up by 2 modulo 4096 when the condition holds, and nothing else changes; when it
does not hold nothing changes at all (R125 to R128). -/
def Obligations.SkipsMovePcWhenTheComparisonHolds : Prop :=
  ∀ (x y : Nibble) (nn : Byte) (s : State),
    decode (0x3#4 ++ x ++ nn) = .recognised (.seImm x nn) ∧
    decode (0x4#4 ++ x ++ nn) = .recognised (.sneImm x nn) ∧
    decode (0x5#4 ++ x ++ y ++ 0x0#4) = .recognised (.seReg x y) ∧
    decode (0x9#4 ++ x ++ y ++ 0x0#4) = .recognised (.sneReg x y) ∧
    (∃ t, exec (.seImm x nn) s = .next t ∧ Frame { pc := true } s t ∧
      t.pc = if (s.readV x).toNat = nn.toNat then pcPlus s.pc 2 else s.pc) ∧
    (∃ t, exec (.sneImm x nn) s = .next t ∧ Frame { pc := true } s t ∧
      t.pc = if (s.readV x).toNat = nn.toNat then s.pc else pcPlus s.pc 2) ∧
    (∃ t, exec (.seReg x y) s = .next t ∧ Frame { pc := true } s t ∧
      t.pc = if (s.readV x).toNat = (s.readV y).toNat then pcPlus s.pc 2 else s.pc) ∧
    (∃ t, exec (.sneReg x y) s = .next t ∧ Frame { pc := true } s t ∧
      t.pc = if (s.readV x).toNat = (s.readV y).toNat then s.pc else pcPlus s.pc 2)

/-! ### Register load, arithmetic, logic, shift, random -/

/-- LD Vx,NN, LD Vx,Vy, OR, AND and XOR write V[X] and nothing else, VF not among it unless X = 15 (R140, R142 to R145). That OR,
AND and XOR leave VF alone is the spec's decision D30 (R22; log entry 11). -/
def Obligations.LoadsAndLogicWriteVxAlone : Prop :=
  ∀ (x y : Nibble) (nn : Byte) (s : State),
    decode (0x6#4 ++ x ++ nn) = .recognised (.ldImm x nn) ∧
    decode (0x8#4 ++ x ++ y ++ 0x0#4) = .recognised (.ldReg x y) ∧
    decode (0x8#4 ++ x ++ y ++ 0x1#4) = .recognised (.orReg x y) ∧
    decode (0x8#4 ++ x ++ y ++ 0x2#4) = .recognised (.andReg x y) ∧
    decode (0x8#4 ++ x ++ y ++ 0x3#4) = .recognised (.xorReg x y) ∧
    (∃ t, exec (.ldImm x nn) s = .next t ∧ t.readV x = nn ∧ Frame { regs := fun r => r = x } s t) ∧
    (∃ t, exec (.ldReg x y) s = .next t ∧ t.readV x = s.readV y ∧ Frame { regs := fun r => r = x } s t) ∧
    (∃ t, exec (.orReg x y) s = .next t ∧ Frame { regs := fun r => r = x } s t ∧
      ∀ k < 8, (t.readV x).getLsbD k = ((s.readV x).getLsbD k || (s.readV y).getLsbD k)) ∧
    (∃ t, exec (.andReg x y) s = .next t ∧ Frame { regs := fun r => r = x } s t ∧
      ∀ k < 8, (t.readV x).getLsbD k = ((s.readV x).getLsbD k && (s.readV y).getLsbD k)) ∧
    (∃ t, exec (.xorReg x y) s = .next t ∧ Frame { regs := fun r => r = x } s t ∧
      ∀ k < 8, (t.readV x).getLsbD k = ((s.readV x).getLsbD k != (s.readV y).getLsbD k))

/-- ADD Vx,NN: the sum modulo 256, and no flag even when it exceeds 255 (R141). -/
def Obligations.AddImmediateWrapsWithoutFlag : Prop :=
  ∀ (x : Nibble) (nn : Byte) (s : State),
    decode (0x7#4 ++ x ++ nn) = .recognised (.addImm x nn) ∧
    ∃ t, exec (.addImm x nn) s = .next t ∧ (t.readV x).toNat = ((s.readV x).toNat + nn.toNat) % 256 ∧
      Frame { regs := fun r => r = x } s t

/-- ADD Vx,Vy, SUB and SUBN: the result modulo 256 in V[X], carry or not-borrow in VF, both from the values before any write;
with X = 15 VF ends as the flag (R146, R147, R149; R153 and decision D6 for X = 15). -/
def Obligations.AddAndSubtractSetResultAndFlag : Prop :=
  ∀ (x y : Nibble) (s : State),
    decode (0x8#4 ++ x ++ y ++ 0x4#4) = .recognised (.addReg x y) ∧
    decode (0x8#4 ++ x ++ y ++ 0x5#4) = .recognised (.sub x y) ∧
    decode (0x8#4 ++ x ++ y ++ 0x7#4) = .recognised (.subn x y) ∧
    (∃ t, exec (.addReg x y) s = .next t ∧ Frame { regs := fun r => r = x ∨ r = 15 } s t ∧
      t.readV 15 = (if (s.readV x).toNat + (s.readV y).toNat > 255 then 1 else 0) ∧
      (x ≠ 15 → (t.readV x).toNat = ((s.readV x).toNat + (s.readV y).toNat) % 256)) ∧
    (∃ t, exec (.sub x y) s = .next t ∧ Frame { regs := fun r => r = x ∨ r = 15 } s t ∧
      t.readV 15 = (if (s.readV x).toNat ≥ (s.readV y).toNat then 1 else 0) ∧
      (x ≠ 15 → (t.readV x).toNat = (256 + (s.readV x).toNat - (s.readV y).toNat) % 256)) ∧
    (∃ t, exec (.subn x y) s = .next t ∧ Frame { regs := fun r => r = x ∨ r = 15 } s t ∧
      t.readV 15 = (if (s.readV y).toNat ≥ (s.readV x).toNat then 1 else 0) ∧
      (x ≠ 15 → (t.readV x).toNat = (256 + (s.readV y).toNat - (s.readV x).toNat) % 256))

/-- SHR and SHL: the source is V[Y] with QA = 0 and V[X] with QA = 1; it moves by one place into V[X], and VF is the bit moved
out; with X = 15 VF ends as that bit (R148, R150; decision D8 for QA, R153 and decision D6 for X = 15). -/
def Obligations.ShiftsMoveTheSelectedSource : Prop :=
  ∀ (x y : Nibble) (s : State) (src : Byte), src = (if s.quirks.qa = true then s.readV x else s.readV y) →
    decode (0x8#4 ++ x ++ y ++ 0x6#4) = .recognised (.shr x y) ∧
    decode (0x8#4 ++ x ++ y ++ 0xE#4) = .recognised (.shl x y) ∧
    (∃ t, exec (.shr x y) s = .next t ∧ Frame { regs := fun r => r = x ∨ r = 15 } s t ∧
      (t.readV 15).toNat = src.toNat % 2 ∧ (x ≠ 15 → (t.readV x).toNat = src.toNat / 2)) ∧
    (∃ t, exec (.shl x y) s = .next t ∧ Frame { regs := fun r => r = x ∨ r = 15 } s t ∧
      (t.readV 15).toNat = src.toNat / 128 ∧ (x ≠ 15 → (t.readV x).toNat = src.toNat * 2 % 256))

/-- RND: V[X] is the byte drawn AND NN, the next draw is another byte, and nothing else changes (R151). The byte is a free value
(log entry 3): nothing here depends on which it is. -/
def Obligations.RandomByteIsMasked : Prop :=
  ∀ (x : Nibble) (nn : Byte) (s : State),
    decode (0xC#4 ++ x ++ nn) = .recognised (.rnd x nn) ∧
    ∃ t, exec (.rnd x nn) s = .next t ∧ t.readV x = Config.randomByte s.draws &&& nn ∧
      (∀ k < 8, nn.getLsbD k = false → (t.readV x).getLsbD k = false) ∧ t.draws = s.draws + 1 ∧
      Frame { regs := fun r => r = x, draws := true } s t

/-! ### Display -/

/-- CLS: every pixel is 0, a readout yields an all-zero framebuffer, and nothing else changes (R161). -/
def Obligations.ClearScreenZeroesEveryPixel : Prop :=
  ∀ (x : Nibble) (s : State),
    decode (0x0#4 ++ x ++ 0xE0#8) = .recognised (.cls x) ∧
    ∃ t, exec (.cls x) s = .next t ∧ (∀ py < 32, ∀ px < 64, t.fb.pixel py px = false) ∧
      t.readFramebuffer = List.replicate 32 (List.replicate 64 false) ∧ Frame { fb := true } s t

/-- DRW: exactly the pixels a 1-bit of the sprite lands on are turned over, and VF is 1 iff one of them was set before the
instruction; the origin is V[X] mod 64, V[Y] mod 32 from before VF is written, and QB = 0 clips and QB = 1 wraps (R162, R163,
R164, R166; decisions D7 and D10, decision D8 for the polarity of QB (R38, log entry 11), and the general-knowledge layout of
R165). -/
def Obligations.DrawTogglesCoveredPixelsAndDetectsCollision : Prop :=
  ∀ (x y n : Nibble) (s : State) (covers : Nat → Nat → Prop),
    covers = spriteCovers s.quirks.qb ((s.readV x).toNat % 64) ((s.readV y).toNat % 32)
      (fun r => Memory.read s.mem ((s.i.toNat + r) % 4096)) n.toNat →
    decode (0xD#4 ++ x ++ y ++ n) = .recognised (.drw x y n) ∧
    ∃ t, exec (.drw x y n) s = .next t ∧ Frame { regs := fun r => r = 15, fb := true } s t ∧
      (∀ py < 32, ∀ px < 64, covers py px → t.fb.pixel py px = !s.fb.pixel py px) ∧
      (∀ py < 32, ∀ px < 64, ¬ covers py px → t.fb.pixel py px = s.fb.pixel py px) ∧
      ((∃ py < 32, ∃ px < 64, covers py px ∧ s.fb.pixel py px = true) → t.readV 15 = 1) ∧
      ((¬ ∃ py < 32, ∃ px < 64, covers py px ∧ s.fb.pixel py px = true) → t.readV 15 = 0)

/-- Drawing the same sprite twice at the same position gives the framebuffer back, and the second draw collides iff a pixel the
sprite touches was clear before the first: on a blank screen, iff it touches any (the source's E5). -/
def Obligations.DrawingTwiceRestoresTheFramebuffer : Prop :=
  ∀ (x y n : Nibble) (s : State), x ≠ 15 → y ≠ 15 →
    ∃ t u, exec (.drw x y n) s = .next t ∧ exec (.drw x y n) t = .next u ∧ u.fb = s.fb ∧
      (u.readV 15 = 1 ↔ ∃ py < 32, ∃ px < 64, s.fb.pixel py px = false ∧
        spriteCovers s.quirks.qb ((s.readV x).toNat % 64) ((s.readV y).toNat % 32)
          (fun r => Memory.read s.mem ((s.i.toNat + r) % 4096)) n.toNat py px)

/-! ### Keys and timers -/

/-- SKP and SKNP: a skip when the key V[X] is down, or up; an index above 15 raises an event, code 5, and never skips (R170,
R171, R206; decision D12: the whole byte is the index). -/
def Obligations.KeySkipsTestTheNamedKey : Prop :=
  EventKind.invalidKeyIndex.code = 5 ∧
  ∀ (x : Nibble) (s : State),
    decode (0xE#4 ++ x ++ 0x9E#8) = .recognised (.skp x) ∧
    decode (0xE#4 ++ x ++ 0xA1#8) = .recognised (.sknp x) ∧
    (∀ k (hk : k < 16), (s.readV x).toNat = k →
      (∃ t, exec (.skp x) s = .next t ∧ Frame { pc := true } s t ∧
        t.pc = if s.keys[k] = true then pcPlus s.pc 2 else s.pc) ∧
      (∃ t, exec (.sknp x) s = .next t ∧ Frame { pc := true } s t ∧
        t.pc = if s.keys[k] = true then s.pc else pcPlus s.pc 2)) ∧
    (15 < (s.readV x).toNat →
      (∃ t, exec (.skp x) s = .next t ∧ Frame { diag := true } s t ∧
        t.diag = s.diag ++ [⟨.invalidKeyIndex, 0xE#4 ++ x ++ 0x9E#8, s.readV x⟩]) ∧
      (∃ t, exec (.sknp x) s = .next t ∧ Frame { diag := true } s t ∧
        t.diag = s.diag ++ [⟨.invalidKeyIndex, 0xE#4 ++ x ++ 0xA1#8, s.readV x⟩]))

/-- LD Vx,K: with no key down PC goes back by 2 modulo 4096 and nothing else changes; else V[X] is the least key that is down
(R172, decision D11). -/
def Obligations.KeyWaitRewindsOrTakesTheLeastKey : Prop :=
  ∀ (x : Nibble) (s : State),
    decode (0xF#4 ++ x ++ 0x0A#8) = .recognised (.ldVxK x) ∧
    ((∀ k (hk : k < 16), s.keys[k] = false) → ∃ t, exec (.ldVxK x) s = .next t ∧
      (t.pc.toNat + 2) % 4096 = s.pc.toNat % 4096 ∧ t.pc.toNat < 4096 ∧ Frame { pc := true } s t) ∧
    (∀ k (hk : k < 16), s.keys[k] = true → (∀ j (hj : j < k), s.keys[j] = false) →
      ∃ t, exec (.ldVxK x) s = .next t ∧ (t.readV x).toNat = k ∧ Frame { regs := fun r => r = x } s t)

/-- LD Vx,DT, LD DT,Vx and LD ST,Vx copy a register and a timer, and nothing else changes, ACC not either (R173 to R175). -/
def Obligations.TimerInstructionsCopyRegisterAndTimer : Prop :=
  ∀ (x : Nibble) (s : State),
    decode (0xF#4 ++ x ++ 0x07#8) = .recognised (.ldVxDt x) ∧
    decode (0xF#4 ++ x ++ 0x15#8) = .recognised (.ldDtVx x) ∧
    decode (0xF#4 ++ x ++ 0x18#8) = .recognised (.ldStVx x) ∧
    (∃ t, exec (.ldVxDt x) s = .next t ∧ t.readV x = s.dt ∧ Frame { regs := fun r => r = x } s t) ∧
    (∃ t, exec (.ldDtVx x) s = .next t ∧ t.dt = s.readV x ∧ Frame { dt := true } s t) ∧
    (∃ t, exec (.ldStVx x) s = .next t ∧ t.st = s.readV x ∧ Frame { st := true } s t)

/-- SOUND_ON follows ST: LD ST,Vx raises it exactly with a value that is not 0, and a tick without instructions leaves it up
exactly when fewer quanta fall due than ST holds (60_exceptions R232, decision D20, the spec's own choice of output). -/
def Obligations.SoundFollowsTheSoundTimer : Prop :=
  ∀ (p : Params) (x : Nibble) (elapsed : Nat) (s : State),
    (∃ t, exec (.ldStVx x) s = .next t ∧ (t.soundOn = true ↔ (s.readV x).toNat ≠ 0)) ∧
    (∃ t, applyHostOp p (.tick 0 elapsed) s = .next t ∧
      (t.soundOn = true ↔ (s.acc + elapsed) / p.quantum < s.st.toNat))

/-! ### Index register and memory -/

/-- LD I,NNN and ADD I,Vx: I is NNN, and I + V[X] modulo 4096; VF is not written (R180, the spec's general-knowledge passage G2,
log entry 14; R181). That ADD I leaves VF alone is the spec's decision D30 (R22; log entry 11). -/
def Obligations.IndexLoadAndAdd : Prop :=
  ∀ (x : Nibble) (nnn : Addr) (s : State),
    decode (0xA#4 ++ nnn) = .recognised (.ldI nnn) ∧
    decode (0xF#4 ++ x ++ 0x1E#8) = .recognised (.addI x) ∧
    (∃ t, exec (.ldI nnn) s = .next t ∧ t.i.toNat = nnn.toNat ∧ Frame { i := true } s t) ∧
    (∃ t, exec (.addI x) s = .next t ∧ t.i.toNat = (s.i.toNat + (s.readV x).toNat) % 4096 ∧
      Frame { i := true } s t)

/-- LD F,Vx: for a digit 0 to 15, I is 5 times the digit; above 15 an event, code 4, and nothing else (R182, R205). -/
def Obligations.FontAddressOrInvalidDigit : Prop :=
  EventKind.invalidDigit.code = 4 ∧
  ∀ (x : Nibble) (s : State),
    decode (0xF#4 ++ x ++ 0x29#8) = .recognised (.ldF x) ∧
    ((s.readV x).toNat ≤ 15 → ∃ t, exec (.ldF x) s = .next t ∧ t.i.toNat = 5 * (s.readV x).toNat ∧
      Frame { i := true } s t) ∧
    (15 < (s.readV x).toNat → ∃ t, exec (.ldF x) s = .next t ∧
      t.diag = s.diag ++ [⟨.invalidDigit, 0xF#4 ++ x ++ 0x29#8, s.readV x⟩] ∧ Frame { diag := true } s t)

/-- LD B,Vx: hundreds, tens and ones at I, I + 1 and I + 2 modulo 4096; every other byte, I and the rest keep their value
(R183). -/
def Obligations.BcdStoresThreeDigits : Prop :=
  ∀ (x : Nibble) (s : State), Memory.wf s.mem →
    decode (0xF#4 ++ x ++ 0x33#8) = .recognised (.ldB x) ∧
    ∃ t, exec (.ldB x) s = .next t ∧ Frame { mem := true } s t ∧
      (Memory.read t.mem (effAddr s.i 0)).toNat = (s.readV x).toNat / 100 ∧
      (Memory.read t.mem (effAddr s.i 1)).toNat = (s.readV x).toNat / 10 % 10 ∧
      (Memory.read t.mem (effAddr s.i 2)).toNat = (s.readV x).toNat % 10 ∧
      (∀ k, effAddr s.i k = (s.i.toNat + k) % 4096) ∧
      ∀ a, a ≠ effAddr s.i 0 → a ≠ effAddr s.i 1 → a ≠ effAddr s.i 2 → Memory.read t.mem a = Memory.read s.mem a

/-- LD [I],Vx: V[0] to V[X] at I to I + X modulo 4096, every other byte as before; I is I + X + 1 modulo 4096 with QC = 0 and
unchanged with QC = 1 (R184). -/
def Obligations.RegisterDumpStoresLowRegisters : Prop :=
  ∀ (x : Nibble) (s : State), Memory.wf s.mem →
    decode (0xF#4 ++ x ++ 0x55#8) = .recognised (.storeRegs x) ∧
    ∃ t, exec (.storeRegs x) s = .next t ∧ Frame { mem := true, i := true } s t ∧
      (∀ r : Nibble, r.toNat ≤ x.toNat → Memory.read t.mem (effAddr s.i r.toNat) = s.readV r) ∧
      (∀ a, (∀ r : Nibble, r.toNat ≤ x.toNat → a ≠ effAddr s.i r.toNat) →
        Memory.read t.mem a = Memory.read s.mem a) ∧
      (s.quirks.qc = false → t.i.toNat = (s.i.toNat + x.toNat + 1) % 4096) ∧ (s.quirks.qc = true → t.i = s.i)

/-- LD Vx,[I]: V[0] to V[X] from I to I + X modulo 4096, the other registers and memory as before; I is I + X + 1 modulo 4096
with QC = 0 and unchanged with QC = 1 (R185). -/
def Obligations.RegisterLoadReadsLowRegisters : Prop :=
  ∀ (x : Nibble) (s : State),
    decode (0xF#4 ++ x ++ 0x65#8) = .recognised (.loadRegs x) ∧
    ∃ t, exec (.loadRegs x) s = .next t ∧ Frame { regs := fun r => r.toNat ≤ x.toNat, i := true } s t ∧
      (∀ r : Nibble, r.toNat ≤ x.toNat → t.readV r = Memory.read s.mem ((s.i.toNat + r.toNat) % 4096)) ∧
      (s.quirks.qc = false → t.i.toNat = (s.i.toNat + x.toNat + 1) % 4096) ∧ (s.quirks.qc = true → t.i = s.i)

/-- With QC = 1 a bulk load gives back the registers a bulk store of the same X wrote, whatever the registers hold in between;
the registers above X keep what they hold. -/
def Obligations.LoadAfterDumpRestoresRegisters : Prop :=
  ∀ (x : Nibble) (s : State) (w : Vector Byte 16), Memory.wf s.mem → s.quirks.qc = true →
    ∃ t u, exec (.storeRegs x) s = .next t ∧ exec (.loadRegs x) { t with v := w } = .next u ∧
      (∀ r : Nibble, r.toNat ≤ x.toNat → u.readV r = s.readV r) ∧
      (∀ r : Nibble, x.toNat < r.toNat → u.readV r = w[r.toNat]'(r.isLt))

/-- A store to code is seen by the very next fetch (20_memory R74): a bulk store of at least V0 and V1 at the address of the next
instruction makes V0 || V1 the next word fetched. -/
def Obligations.StoredCodeIsFetchedNext : Prop :=
  ∀ (x : Nibble) (s : State), Memory.wf s.mem → 1 ≤ x.toNat → s.i = s.pc →
    ∃ t, exec (.storeRegs x) s = .next t ∧ t.fetchWord = s.readV 0 ++ s.readV 1

/-! ### The scheduler and the host -/

/-- A tick (R220): exactly K slots when Running, one (then Paused) when PausedStep with K at least 1, none when PausedStep with
K = 0 or Paused; then, in every run state, the timer phase, at every value of the open parameters (R8). -/
def Obligations.TickRunsSlotsThenTimers : Prop :=
  ∀ (p : Params) (k elapsed : Nat) (s : State),
    (s.run = .running → ∀ u : State, Host.Core.run Sys2Proof.core k s = .next u →
      ∃ t, tick p k elapsed s = .next t ∧ TimersAdvanced p elapsed u t) ∧
    (s.run = .pausedStep → 1 ≤ k → ∀ u : State, step s = .next u →
      ∃ t, tick p k elapsed s = .next t ∧ TimersAdvanced p elapsed { u with run := .paused } t) ∧
    (s.run = .pausedStep → k = 0 → ∃ t, tick p k elapsed s = .next t ∧ TimersAdvanced p elapsed s t) ∧
    (s.run = .paused → ∃ t, tick p k elapsed s = .next t ∧ TimersAdvanced p elapsed s t)

/-- How real time is cut into ticks does not matter (R223): any sequence of ticks with K = 0 acts on the timers and on ACC as one
timer phase over the sum of the elapsed times, in every run state. -/
def Obligations.TimerLawOverAnySequenceOfTicks : Prop :=
  ∀ (p : Params) (times : List Nat) (s : State), s.acc < p.quantum →
    ∃ t, session p (times.map (HostOp.tick 0)) s = .next t ∧ TimersAdvanced p times.sum s t

/-- The run-state transitions of PauseToggle and StepRequest, which change nothing else (R226, R227, R260, R261, decision D15). -/
def Obligations.PauseAndStepRequestTransitions : Prop :=
  ∀ (p : Params) (s : State),
    (∃ t, applyHostOp p .pauseToggle s = .next t ∧ t = { s with run := t.run } ∧
      (s.run = .running → t.run = .paused) ∧ (s.run = .paused → t.run = .running) ∧
      (s.run = .pausedStep → t.run = .running)) ∧
    (∃ t, applyHostOp p .stepRequest s = .next t ∧ t = { s with run := t.run } ∧
      (s.run = .running → t.run = .running) ∧ (s.run = .paused → t.run = .pausedStep) ∧
      (s.run = .pausedStep → t.run = .pausedStep))

/-- SetKey sets one key flag and SetQuirks the three switches; nothing else changes (R258, R259). -/
def Obligations.SetKeyAndSetQuirksWriteOnlyThose : Prop :=
  ∀ (p : Params) (s : State) (k : Nibble) (down a b c : Bool),
    (∃ t, applyHostOp p (.setKey k down) s = .next t ∧ t = { s with keys := t.keys } ∧
      ∀ j (hj : j < 16), t.keys[j] = if j = k.toNat then down else s.keys[j]) ∧
    (∃ t, applyHostOp p (.setQuirks a b c) s = .next t ∧ t = { s with quirks := t.quirks } ∧
      t.quirks.qa = a ∧ t.quirks.qb = b ∧ t.quirks.qc = c)

/-- LoadProgram: an image of at most 3584 bytes is copied to 0x200 upward and nothing else changes; a larger one is refused
whole (R256, R257, decision D21). -/
def Obligations.LoadProgramCopiesOrRefuses : Prop :=
  ∀ (p : Params) (image : List Byte) (s : State), Memory.wf s.mem →
    (image.length ≤ 3584 → ∃ t, applyHostOp p (.loadProgram image) s = .next t ∧ t = { s with mem := t.mem } ∧
      (∀ k (hk : k < image.length), Memory.read t.mem (0x200 + k) = image[k]) ∧
      (∀ a, a < 0x200 ∨ 0x200 + image.length ≤ a → Memory.read t.mem a = Memory.read s.mem a)) ∧
    (3584 < image.length → applyHostOp p (.loadProgram image) s = .refused .loadTooLarge)

/-- Reset puts every piece of the hardware's state at R43's value, from any state and at any parameters: QUIRK_RESET in the
switches and FONT_ROM at 0x000..0x04F. The source fixes PC, SP and the font's place (R250); the zeros are the spec's decision
D14 (log entry 5), the run state D15. The model's own draw counter keeps its value (log entry 4). At the reference parameters
(log entries 6, 7, 9) the state is State.reset, with the switches at 0 and the font of R44. -/
def Obligations.ResetPutsEveryPieceAtItsResetValue : Prop :=
  (∀ (p : Params) (s : State), ∃ t, applyHostOp p .reset s = .next t ∧
    t.pc = 0x200 ∧ t.sp = 0 ∧ t.i = 0 ∧ t.dt = 0 ∧ t.st = 0 ∧ t.acc = 0 ∧ t.diag = [] ∧ t.run = .running ∧
    t.quirks = p.quirkReset ∧ t.draws = s.draws ∧ (∀ r, t.readV r = 0) ∧
    (∀ k (hk : k < 16), t.stack[k] = 0 ∧ t.keys[k] = false) ∧
    (∀ py < 32, ∀ px < 64, t.fb.pixel py px = false) ∧
    (∀ a (ha : a < 80), Memory.read t.mem a = p.fontRom[a]) ∧ (∀ a, 80 ≤ a → Memory.read t.mem a = 0)) ∧
  State.resetWith .reference = State.reset ∧ Params.reference.quantum = 1000 ∧
  Params.reference.quirkReset = ⟨false, false, false⟩ ∧
  (List.range 16).map (fun d => (List.range 5).map fun k => Memory.read State.reset.mem (5 * d + k)) =
    [[0xF0, 0x90, 0x90, 0x90, 0xF0], [0x20, 0x60, 0x20, 0x20, 0x70], [0xF0, 0x10, 0xF0, 0x80, 0xF0],
       [0xF0, 0x10, 0xF0, 0x10, 0xF0], [0x90, 0x90, 0xF0, 0x10, 0x10], [0xF0, 0x80, 0xF0, 0x10, 0xF0],
       [0xF0, 0x80, 0xF0, 0x90, 0xF0], [0xF0, 0x10, 0x20, 0x40, 0x40], [0xF0, 0x90, 0xF0, 0x90, 0xF0],
       [0xF0, 0x90, 0xF0, 0x10, 0xF0], [0xF0, 0x90, 0xF0, 0x90, 0x90], [0xE0, 0x90, 0xE0, 0x90, 0xE0],
       [0xF0, 0x80, 0x80, 0x80, 0xF0], [0xE0, 0x90, 0x90, 0x90, 0xE0], [0xF0, 0x80, 0xF0, 0x80, 0xF0],
       [0xF0, 0x80, 0xF0, 0x80, 0x80]]

/-- From a self-jump, the end of a run (70_reset R273, decision D26; log entry 17), a tick runs its slots and changes nothing
but DT, ST and ACC in its timer phase, and RUN where a pending step is taken (60_exceptions R228); the host can change KEYS,
QUIRKS and RUN; and the program stays finished. -/
def Obligations.FinishedProgramChangesOnlyTimers : Prop :=
  ∀ (p : Params) (s : State), s.finished = true →
    (∀ k elapsed : Nat, ∃ t, applyHostOp p (.tick k elapsed) s = .next t ∧ t.finished = true ∧
      t.run = (if s.run = .pausedStep ∧ 1 ≤ k then .paused else s.run) ∧
      TimersAdvanced p elapsed { s with run := t.run } t) ∧
    (∀ (op : HostOp) (t : State), applyHostOp p op s = .next t → (∀ k elapsed, op ≠ .tick k elapsed) → op ≠ .reset →
      (∀ image, op ≠ .loadProgram image) →
      t.finished = true ∧ t = { s with keys := t.keys, quirks := t.quirks, run := t.run })

/-- The random byte is an input, not state (10_state R20, R45; 00_scope R8): the place reached in the RND input, the model's own
field (log entry 3), reaches nothing but the byte RND writes. From another place a step that does not run RND does the same
to the hardware's state and leaves the place; RND puts another free byte, masked alike, in V[X] and moves on by one. -/
def Obligations.OnlyRandomReadsTheInputPosition : Prop :=
  ∀ (s t : State) (n : Nat), step s = .next t →
    ((∀ x nn, decode s.fetchWord ≠ .recognised (.rnd x nn)) →
      t.draws = s.draws ∧ step { s with draws := n } = .next { t with draws := n }) ∧
    (∀ x nn, decode s.fetchWord = .recognised (.rnd x nn) →
      t.draws = s.draws + 1 ∧ step { s with draws := n } =
        .next { t.writeV x (Config.randomByte n &&& nn) with draws := n + 1 })
end

