-- ==== Sys2Proof/Laws/Decode.lean ====
section
/-! SUPPORT. The fields of words put together from fields (30_encoding R92), layout by layout (R94): what the decoder reads from
an encoded instruction. -/

namespace Sys2Proof

/-! ### Layout G, NNN -/

theorem splitFields_nnn (g : Nibble) (nnn : Addr) :
    (splitFields (g ++ nnn)).g = g ∧ (splitFields (g ++ nnn)).nnn = nnn ∧
      (splitFields (g ++ nnn)).nn = Addr.lowByte nnn := by
  refine ⟨?_, ?_, ?_⟩ <;>
    exact BitVec.eq_of_getLsbD_eq fun j hj => by
      simp only [splitFields, Addr.lowByte, BitVec.getLsbD_extractLsb', BitVec.getLsbD_append]
      grind

/-! ### Layout G, X, NN -/

theorem splitFields_xnn (g x : Nibble) (nn : Byte) :
    (splitFields (g ++ x ++ nn)).g = g ∧ (splitFields (g ++ x ++ nn)).x = x ∧ (splitFields (g ++ x ++ nn)).nn = nn := by
  refine ⟨?_, ?_, ?_⟩ <;>
    exact BitVec.eq_of_getLsbD_eq fun j hj => by
      simp only [splitFields, BitVec.getLsbD_extractLsb', BitVec.getLsbD_append]
      grind

/-! ### Layout G, X, Y, N -/

theorem splitFields_xyn (g x y n : Nibble) :
    (splitFields (g ++ x ++ y ++ n)).g = g ∧ (splitFields (g ++ x ++ y ++ n)).x = x ∧
      (splitFields (g ++ x ++ y ++ n)).y = y ∧ (splitFields (g ++ x ++ y ++ n)).n = n := by
  refine ⟨?_, ?_, ?_, ?_⟩ <;>
    exact BitVec.eq_of_getLsbD_eq fun j hj => by
      simp only [splitFields, BitVec.getLsbD_extractLsb', BitVec.getLsbD_append]
      grind

end Sys2Proof
end

