-- ==== Sys2Proof/Laws/State.lean ====
section
/-! SUPPORT. The fields of a state after each primitive update, one lemma per field, true by `rfl`: no later proof unfolds a
record update. -/

namespace Sys2Proof.Machine

/-! ### `State.memWrite` -/

@[simp] theorem State.memWrite_mem (s : State) (a : Nat) (b : Byte) : (s.memWrite a b).mem = Memory.write s.mem (a % Config.memSize) b := rfl
@[simp] theorem State.memWrite_v (s : State) (a : Nat) (b : Byte) : (s.memWrite a b).v = s.v := rfl
@[simp] theorem State.memWrite_i (s : State) (a : Nat) (b : Byte) : (s.memWrite a b).i = s.i := rfl
@[simp] theorem State.memWrite_pc (s : State) (a : Nat) (b : Byte) : (s.memWrite a b).pc = s.pc := rfl
@[simp] theorem State.memWrite_sp (s : State) (a : Nat) (b : Byte) : (s.memWrite a b).sp = s.sp := rfl
@[simp] theorem State.memWrite_stack (s : State) (a : Nat) (b : Byte) : (s.memWrite a b).stack = s.stack := rfl
@[simp] theorem State.memWrite_dt (s : State) (a : Nat) (b : Byte) : (s.memWrite a b).dt = s.dt := rfl
@[simp] theorem State.memWrite_st (s : State) (a : Nat) (b : Byte) : (s.memWrite a b).st = s.st := rfl
@[simp] theorem State.memWrite_fb (s : State) (a : Nat) (b : Byte) : (s.memWrite a b).fb = s.fb := rfl
@[simp] theorem State.memWrite_keys (s : State) (a : Nat) (b : Byte) : (s.memWrite a b).keys = s.keys := rfl
@[simp] theorem State.memWrite_quirks (s : State) (a : Nat) (b : Byte) : (s.memWrite a b).quirks = s.quirks := rfl
@[simp] theorem State.memWrite_run (s : State) (a : Nat) (b : Byte) : (s.memWrite a b).run = s.run := rfl
@[simp] theorem State.memWrite_acc (s : State) (a : Nat) (b : Byte) : (s.memWrite a b).acc = s.acc := rfl
@[simp] theorem State.memWrite_diag (s : State) (a : Nat) (b : Byte) : (s.memWrite a b).diag = s.diag := rfl
@[simp] theorem State.memWrite_draws (s : State) (a : Nat) (b : Byte) : (s.memWrite a b).draws = s.draws := rfl
@[simp] theorem State.readV_memWrite (s : State) (a : Nat) (b : Byte) (r : Nibble) : (s.memWrite a b).readV r = s.readV r := rfl

/-! ### `State.writeV` -/

@[simp] theorem State.writeV_mem (s : State) (x : Nibble) (b : Byte) : (s.writeV x b).mem = s.mem := rfl
@[simp] theorem State.writeV_v (s : State) (x : Nibble) (b : Byte) : (s.writeV x b).v = s.v.set x.toNat b x.isLt := rfl
@[simp] theorem State.writeV_i (s : State) (x : Nibble) (b : Byte) : (s.writeV x b).i = s.i := rfl
@[simp] theorem State.writeV_pc (s : State) (x : Nibble) (b : Byte) : (s.writeV x b).pc = s.pc := rfl
@[simp] theorem State.writeV_sp (s : State) (x : Nibble) (b : Byte) : (s.writeV x b).sp = s.sp := rfl
@[simp] theorem State.writeV_stack (s : State) (x : Nibble) (b : Byte) : (s.writeV x b).stack = s.stack := rfl
@[simp] theorem State.writeV_dt (s : State) (x : Nibble) (b : Byte) : (s.writeV x b).dt = s.dt := rfl
@[simp] theorem State.writeV_st (s : State) (x : Nibble) (b : Byte) : (s.writeV x b).st = s.st := rfl
@[simp] theorem State.writeV_fb (s : State) (x : Nibble) (b : Byte) : (s.writeV x b).fb = s.fb := rfl
@[simp] theorem State.writeV_keys (s : State) (x : Nibble) (b : Byte) : (s.writeV x b).keys = s.keys := rfl
@[simp] theorem State.writeV_quirks (s : State) (x : Nibble) (b : Byte) : (s.writeV x b).quirks = s.quirks := rfl
@[simp] theorem State.writeV_run (s : State) (x : Nibble) (b : Byte) : (s.writeV x b).run = s.run := rfl
@[simp] theorem State.writeV_acc (s : State) (x : Nibble) (b : Byte) : (s.writeV x b).acc = s.acc := rfl
@[simp] theorem State.writeV_diag (s : State) (x : Nibble) (b : Byte) : (s.writeV x b).diag = s.diag := rfl
@[simp] theorem State.writeV_draws (s : State) (x : Nibble) (b : Byte) : (s.writeV x b).draws = s.draws := rfl

/-! ### `State.setPc` -/

@[simp] theorem State.setPc_mem (s : State) (t : Nat) : (s.setPc t).mem = s.mem := rfl
@[simp] theorem State.setPc_v (s : State) (t : Nat) : (s.setPc t).v = s.v := rfl
@[simp] theorem State.setPc_i (s : State) (t : Nat) : (s.setPc t).i = s.i := rfl
@[simp] theorem State.setPc_pc (s : State) (t : Nat) : (s.setPc t).pc = BitVec.ofNat 16 (t % Config.memSize) := rfl
@[simp] theorem State.setPc_sp (s : State) (t : Nat) : (s.setPc t).sp = s.sp := rfl
@[simp] theorem State.setPc_stack (s : State) (t : Nat) : (s.setPc t).stack = s.stack := rfl
@[simp] theorem State.setPc_dt (s : State) (t : Nat) : (s.setPc t).dt = s.dt := rfl
@[simp] theorem State.setPc_st (s : State) (t : Nat) : (s.setPc t).st = s.st := rfl
@[simp] theorem State.setPc_fb (s : State) (t : Nat) : (s.setPc t).fb = s.fb := rfl
@[simp] theorem State.setPc_keys (s : State) (t : Nat) : (s.setPc t).keys = s.keys := rfl
@[simp] theorem State.setPc_quirks (s : State) (t : Nat) : (s.setPc t).quirks = s.quirks := rfl
@[simp] theorem State.setPc_run (s : State) (t : Nat) : (s.setPc t).run = s.run := rfl
@[simp] theorem State.setPc_acc (s : State) (t : Nat) : (s.setPc t).acc = s.acc := rfl
@[simp] theorem State.setPc_diag (s : State) (t : Nat) : (s.setPc t).diag = s.diag := rfl
@[simp] theorem State.setPc_draws (s : State) (t : Nat) : (s.setPc t).draws = s.draws := rfl
@[simp] theorem State.readV_setPc (s : State) (t : Nat) (r : Nibble) : (s.setPc t).readV r = s.readV r := rfl

/-! ### `State.advancePc` -/

@[simp] theorem State.advancePc_mem (s : State) : (s.advancePc).mem = s.mem := rfl
@[simp] theorem State.advancePc_v (s : State) : (s.advancePc).v = s.v := rfl
@[simp] theorem State.advancePc_i (s : State) : (s.advancePc).i = s.i := rfl
@[simp] theorem State.advancePc_pc (s : State) : (s.advancePc).pc = BitVec.ofNat 16 ((s.pc.toNat + 2) % 4096) := rfl
@[simp] theorem State.advancePc_sp (s : State) : (s.advancePc).sp = s.sp := rfl
@[simp] theorem State.advancePc_stack (s : State) : (s.advancePc).stack = s.stack := rfl
@[simp] theorem State.advancePc_dt (s : State) : (s.advancePc).dt = s.dt := rfl
@[simp] theorem State.advancePc_st (s : State) : (s.advancePc).st = s.st := rfl
@[simp] theorem State.advancePc_fb (s : State) : (s.advancePc).fb = s.fb := rfl
@[simp] theorem State.advancePc_keys (s : State) : (s.advancePc).keys = s.keys := rfl
@[simp] theorem State.advancePc_quirks (s : State) : (s.advancePc).quirks = s.quirks := rfl
@[simp] theorem State.advancePc_run (s : State) : (s.advancePc).run = s.run := rfl
@[simp] theorem State.advancePc_acc (s : State) : (s.advancePc).acc = s.acc := rfl
@[simp] theorem State.advancePc_diag (s : State) : (s.advancePc).diag = s.diag := rfl
@[simp] theorem State.advancePc_draws (s : State) : (s.advancePc).draws = s.draws := rfl
@[simp] theorem State.readV_advancePc (s : State) (r : Nibble) : (s.advancePc).readV r = s.readV r := rfl

/-! ### `State.rewindPc` -/

@[simp] theorem State.rewindPc_mem (s : State) : (s.rewindPc).mem = s.mem := rfl
@[simp] theorem State.rewindPc_v (s : State) : (s.rewindPc).v = s.v := rfl
@[simp] theorem State.rewindPc_i (s : State) : (s.rewindPc).i = s.i := rfl
@[simp] theorem State.rewindPc_pc (s : State) : (s.rewindPc).pc = BitVec.ofNat 16 ((s.pc - 2).toNat % 4096) := rfl
@[simp] theorem State.rewindPc_sp (s : State) : (s.rewindPc).sp = s.sp := rfl
@[simp] theorem State.rewindPc_stack (s : State) : (s.rewindPc).stack = s.stack := rfl
@[simp] theorem State.rewindPc_dt (s : State) : (s.rewindPc).dt = s.dt := rfl
@[simp] theorem State.rewindPc_st (s : State) : (s.rewindPc).st = s.st := rfl
@[simp] theorem State.rewindPc_fb (s : State) : (s.rewindPc).fb = s.fb := rfl
@[simp] theorem State.rewindPc_keys (s : State) : (s.rewindPc).keys = s.keys := rfl
@[simp] theorem State.rewindPc_quirks (s : State) : (s.rewindPc).quirks = s.quirks := rfl
@[simp] theorem State.rewindPc_run (s : State) : (s.rewindPc).run = s.run := rfl
@[simp] theorem State.rewindPc_acc (s : State) : (s.rewindPc).acc = s.acc := rfl
@[simp] theorem State.rewindPc_diag (s : State) : (s.rewindPc).diag = s.diag := rfl
@[simp] theorem State.rewindPc_draws (s : State) : (s.rewindPc).draws = s.draws := rfl
@[simp] theorem State.readV_rewindPc (s : State) (r : Nibble) : (s.rewindPc).readV r = s.readV r := rfl

/-! ### `State.setI` -/

@[simp] theorem State.setI_mem (s : State) (t : Nat) : (s.setI t).mem = s.mem := rfl
@[simp] theorem State.setI_v (s : State) (t : Nat) : (s.setI t).v = s.v := rfl
@[simp] theorem State.setI_i (s : State) (t : Nat) : (s.setI t).i = BitVec.ofNat 16 (t % Config.memSize) := rfl
@[simp] theorem State.setI_pc (s : State) (t : Nat) : (s.setI t).pc = s.pc := rfl
@[simp] theorem State.setI_sp (s : State) (t : Nat) : (s.setI t).sp = s.sp := rfl
@[simp] theorem State.setI_stack (s : State) (t : Nat) : (s.setI t).stack = s.stack := rfl
@[simp] theorem State.setI_dt (s : State) (t : Nat) : (s.setI t).dt = s.dt := rfl
@[simp] theorem State.setI_st (s : State) (t : Nat) : (s.setI t).st = s.st := rfl
@[simp] theorem State.setI_fb (s : State) (t : Nat) : (s.setI t).fb = s.fb := rfl
@[simp] theorem State.setI_keys (s : State) (t : Nat) : (s.setI t).keys = s.keys := rfl
@[simp] theorem State.setI_quirks (s : State) (t : Nat) : (s.setI t).quirks = s.quirks := rfl
@[simp] theorem State.setI_run (s : State) (t : Nat) : (s.setI t).run = s.run := rfl
@[simp] theorem State.setI_acc (s : State) (t : Nat) : (s.setI t).acc = s.acc := rfl
@[simp] theorem State.setI_diag (s : State) (t : Nat) : (s.setI t).diag = s.diag := rfl
@[simp] theorem State.setI_draws (s : State) (t : Nat) : (s.setI t).draws = s.draws := rfl
@[simp] theorem State.readV_setI (s : State) (t : Nat) (r : Nibble) : (s.setI t).readV r = s.readV r := rfl

/-! ### `State.setDt` -/

@[simp] theorem State.setDt_mem (s : State) (b : Byte) : (s.setDt b).mem = s.mem := rfl
@[simp] theorem State.setDt_v (s : State) (b : Byte) : (s.setDt b).v = s.v := rfl
@[simp] theorem State.setDt_i (s : State) (b : Byte) : (s.setDt b).i = s.i := rfl
@[simp] theorem State.setDt_pc (s : State) (b : Byte) : (s.setDt b).pc = s.pc := rfl
@[simp] theorem State.setDt_sp (s : State) (b : Byte) : (s.setDt b).sp = s.sp := rfl
@[simp] theorem State.setDt_stack (s : State) (b : Byte) : (s.setDt b).stack = s.stack := rfl
@[simp] theorem State.setDt_dt (s : State) (b : Byte) : (s.setDt b).dt = b := rfl
@[simp] theorem State.setDt_st (s : State) (b : Byte) : (s.setDt b).st = s.st := rfl
@[simp] theorem State.setDt_fb (s : State) (b : Byte) : (s.setDt b).fb = s.fb := rfl
@[simp] theorem State.setDt_keys (s : State) (b : Byte) : (s.setDt b).keys = s.keys := rfl
@[simp] theorem State.setDt_quirks (s : State) (b : Byte) : (s.setDt b).quirks = s.quirks := rfl
@[simp] theorem State.setDt_run (s : State) (b : Byte) : (s.setDt b).run = s.run := rfl
@[simp] theorem State.setDt_acc (s : State) (b : Byte) : (s.setDt b).acc = s.acc := rfl
@[simp] theorem State.setDt_diag (s : State) (b : Byte) : (s.setDt b).diag = s.diag := rfl
@[simp] theorem State.setDt_draws (s : State) (b : Byte) : (s.setDt b).draws = s.draws := rfl
@[simp] theorem State.readV_setDt (s : State) (b : Byte) (r : Nibble) : (s.setDt b).readV r = s.readV r := rfl

/-! ### `State.setSt` -/

@[simp] theorem State.setSt_mem (s : State) (b : Byte) : (s.setSt b).mem = s.mem := rfl
@[simp] theorem State.setSt_v (s : State) (b : Byte) : (s.setSt b).v = s.v := rfl
@[simp] theorem State.setSt_i (s : State) (b : Byte) : (s.setSt b).i = s.i := rfl
@[simp] theorem State.setSt_pc (s : State) (b : Byte) : (s.setSt b).pc = s.pc := rfl
@[simp] theorem State.setSt_sp (s : State) (b : Byte) : (s.setSt b).sp = s.sp := rfl
@[simp] theorem State.setSt_stack (s : State) (b : Byte) : (s.setSt b).stack = s.stack := rfl
@[simp] theorem State.setSt_dt (s : State) (b : Byte) : (s.setSt b).dt = s.dt := rfl
@[simp] theorem State.setSt_st (s : State) (b : Byte) : (s.setSt b).st = b := rfl
@[simp] theorem State.setSt_fb (s : State) (b : Byte) : (s.setSt b).fb = s.fb := rfl
@[simp] theorem State.setSt_keys (s : State) (b : Byte) : (s.setSt b).keys = s.keys := rfl
@[simp] theorem State.setSt_quirks (s : State) (b : Byte) : (s.setSt b).quirks = s.quirks := rfl
@[simp] theorem State.setSt_run (s : State) (b : Byte) : (s.setSt b).run = s.run := rfl
@[simp] theorem State.setSt_acc (s : State) (b : Byte) : (s.setSt b).acc = s.acc := rfl
@[simp] theorem State.setSt_diag (s : State) (b : Byte) : (s.setSt b).diag = s.diag := rfl
@[simp] theorem State.setSt_draws (s : State) (b : Byte) : (s.setSt b).draws = s.draws := rfl
@[simp] theorem State.readV_setSt (s : State) (b : Byte) (r : Nibble) : (s.setSt b).readV r = s.readV r := rfl

/-! ### `State.takeDraw` -/

@[simp] theorem State.takeDraw_mem (s : State) : (s.takeDraw).mem = s.mem := rfl
@[simp] theorem State.takeDraw_v (s : State) : (s.takeDraw).v = s.v := rfl
@[simp] theorem State.takeDraw_i (s : State) : (s.takeDraw).i = s.i := rfl
@[simp] theorem State.takeDraw_pc (s : State) : (s.takeDraw).pc = s.pc := rfl
@[simp] theorem State.takeDraw_sp (s : State) : (s.takeDraw).sp = s.sp := rfl
@[simp] theorem State.takeDraw_stack (s : State) : (s.takeDraw).stack = s.stack := rfl
@[simp] theorem State.takeDraw_dt (s : State) : (s.takeDraw).dt = s.dt := rfl
@[simp] theorem State.takeDraw_st (s : State) : (s.takeDraw).st = s.st := rfl
@[simp] theorem State.takeDraw_fb (s : State) : (s.takeDraw).fb = s.fb := rfl
@[simp] theorem State.takeDraw_keys (s : State) : (s.takeDraw).keys = s.keys := rfl
@[simp] theorem State.takeDraw_quirks (s : State) : (s.takeDraw).quirks = s.quirks := rfl
@[simp] theorem State.takeDraw_run (s : State) : (s.takeDraw).run = s.run := rfl
@[simp] theorem State.takeDraw_acc (s : State) : (s.takeDraw).acc = s.acc := rfl
@[simp] theorem State.takeDraw_diag (s : State) : (s.takeDraw).diag = s.diag := rfl
@[simp] theorem State.takeDraw_draws (s : State) : (s.takeDraw).draws = s.draws + 1 := rfl
@[simp] theorem State.readV_takeDraw (s : State) (r : Nibble) : (s.takeDraw).readV r = s.readV r := rfl

/-! ### `State.push` -/

@[simp] theorem State.push_mem (s : State) (a : Word) (h : s.sp.toNat < 16) : (s.push a h).mem = s.mem := rfl
@[simp] theorem State.push_v (s : State) (a : Word) (h : s.sp.toNat < 16) : (s.push a h).v = s.v := rfl
@[simp] theorem State.push_i (s : State) (a : Word) (h : s.sp.toNat < 16) : (s.push a h).i = s.i := rfl
@[simp] theorem State.push_pc (s : State) (a : Word) (h : s.sp.toNat < 16) : (s.push a h).pc = s.pc := rfl
@[simp] theorem State.push_sp (s : State) (a : Word) (h : s.sp.toNat < 16) : (s.push a h).sp = s.sp + 1 := rfl
@[simp] theorem State.push_stack (s : State) (a : Word) (h : s.sp.toNat < 16) : (s.push a h).stack = s.stack.set s.sp.toNat a h := rfl
@[simp] theorem State.push_dt (s : State) (a : Word) (h : s.sp.toNat < 16) : (s.push a h).dt = s.dt := rfl
@[simp] theorem State.push_st (s : State) (a : Word) (h : s.sp.toNat < 16) : (s.push a h).st = s.st := rfl
@[simp] theorem State.push_fb (s : State) (a : Word) (h : s.sp.toNat < 16) : (s.push a h).fb = s.fb := rfl
@[simp] theorem State.push_keys (s : State) (a : Word) (h : s.sp.toNat < 16) : (s.push a h).keys = s.keys := rfl
@[simp] theorem State.push_quirks (s : State) (a : Word) (h : s.sp.toNat < 16) : (s.push a h).quirks = s.quirks := rfl
@[simp] theorem State.push_run (s : State) (a : Word) (h : s.sp.toNat < 16) : (s.push a h).run = s.run := rfl
@[simp] theorem State.push_acc (s : State) (a : Word) (h : s.sp.toNat < 16) : (s.push a h).acc = s.acc := rfl
@[simp] theorem State.push_diag (s : State) (a : Word) (h : s.sp.toNat < 16) : (s.push a h).diag = s.diag := rfl
@[simp] theorem State.push_draws (s : State) (a : Word) (h : s.sp.toNat < 16) : (s.push a h).draws = s.draws := rfl
@[simp] theorem State.readV_push (s : State) (a : Word) (h : s.sp.toNat < 16) (r : Nibble) : (s.push a h).readV r = s.readV r := rfl

/-! ### `State.pop` -/

@[simp] theorem State.pop_mem (s : State) (h : s.sp.toNat - 1 < 16) : (s.pop h).mem = s.mem := rfl
@[simp] theorem State.pop_v (s : State) (h : s.sp.toNat - 1 < 16) : (s.pop h).v = s.v := rfl
@[simp] theorem State.pop_i (s : State) (h : s.sp.toNat - 1 < 16) : (s.pop h).i = s.i := rfl
@[simp] theorem State.pop_pc (s : State) (h : s.sp.toNat - 1 < 16) : (s.pop h).pc = BitVec.ofNat 16 ((s.stack[s.sp.toNat - 1]'h).toNat % Config.memSize) := rfl
@[simp] theorem State.pop_sp (s : State) (h : s.sp.toNat - 1 < 16) : (s.pop h).sp = s.sp - 1 := rfl
@[simp] theorem State.pop_stack (s : State) (h : s.sp.toNat - 1 < 16) : (s.pop h).stack = s.stack := rfl
@[simp] theorem State.pop_dt (s : State) (h : s.sp.toNat - 1 < 16) : (s.pop h).dt = s.dt := rfl
@[simp] theorem State.pop_st (s : State) (h : s.sp.toNat - 1 < 16) : (s.pop h).st = s.st := rfl
@[simp] theorem State.pop_fb (s : State) (h : s.sp.toNat - 1 < 16) : (s.pop h).fb = s.fb := rfl
@[simp] theorem State.pop_keys (s : State) (h : s.sp.toNat - 1 < 16) : (s.pop h).keys = s.keys := rfl
@[simp] theorem State.pop_quirks (s : State) (h : s.sp.toNat - 1 < 16) : (s.pop h).quirks = s.quirks := rfl
@[simp] theorem State.pop_run (s : State) (h : s.sp.toNat - 1 < 16) : (s.pop h).run = s.run := rfl
@[simp] theorem State.pop_acc (s : State) (h : s.sp.toNat - 1 < 16) : (s.pop h).acc = s.acc := rfl
@[simp] theorem State.pop_diag (s : State) (h : s.sp.toNat - 1 < 16) : (s.pop h).diag = s.diag := rfl
@[simp] theorem State.pop_draws (s : State) (h : s.sp.toNat - 1 < 16) : (s.pop h).draws = s.draws := rfl
@[simp] theorem State.readV_pop (s : State) (h : s.sp.toNat - 1 < 16) (r : Nibble) : (s.pop h).readV r = s.readV r := rfl

/-! ### `State.setFb` -/

@[simp] theorem State.setFb_mem (s : State) (f : Framebuffer) : (s.setFb f).mem = s.mem := rfl
@[simp] theorem State.setFb_v (s : State) (f : Framebuffer) : (s.setFb f).v = s.v := rfl
@[simp] theorem State.setFb_i (s : State) (f : Framebuffer) : (s.setFb f).i = s.i := rfl
@[simp] theorem State.setFb_pc (s : State) (f : Framebuffer) : (s.setFb f).pc = s.pc := rfl
@[simp] theorem State.setFb_sp (s : State) (f : Framebuffer) : (s.setFb f).sp = s.sp := rfl
@[simp] theorem State.setFb_stack (s : State) (f : Framebuffer) : (s.setFb f).stack = s.stack := rfl
@[simp] theorem State.setFb_dt (s : State) (f : Framebuffer) : (s.setFb f).dt = s.dt := rfl
@[simp] theorem State.setFb_st (s : State) (f : Framebuffer) : (s.setFb f).st = s.st := rfl
@[simp] theorem State.setFb_fb (s : State) (f : Framebuffer) : (s.setFb f).fb = f := rfl
@[simp] theorem State.setFb_keys (s : State) (f : Framebuffer) : (s.setFb f).keys = s.keys := rfl
@[simp] theorem State.setFb_quirks (s : State) (f : Framebuffer) : (s.setFb f).quirks = s.quirks := rfl
@[simp] theorem State.setFb_run (s : State) (f : Framebuffer) : (s.setFb f).run = s.run := rfl
@[simp] theorem State.setFb_acc (s : State) (f : Framebuffer) : (s.setFb f).acc = s.acc := rfl
@[simp] theorem State.setFb_diag (s : State) (f : Framebuffer) : (s.setFb f).diag = s.diag := rfl
@[simp] theorem State.setFb_draws (s : State) (f : Framebuffer) : (s.setFb f).draws = s.draws := rfl
@[simp] theorem State.readV_setFb (s : State) (f : Framebuffer) (r : Nibble) : (s.setFb f).readV r = s.readV r := rfl

/-! ### `State.raise` -/

@[simp] theorem State.raise_mem (s : State) (k : EventKind) (w : Word) (b : Byte) : (s.raise k w b).mem = s.mem := rfl
@[simp] theorem State.raise_v (s : State) (k : EventKind) (w : Word) (b : Byte) : (s.raise k w b).v = s.v := rfl
@[simp] theorem State.raise_i (s : State) (k : EventKind) (w : Word) (b : Byte) : (s.raise k w b).i = s.i := rfl
@[simp] theorem State.raise_pc (s : State) (k : EventKind) (w : Word) (b : Byte) : (s.raise k w b).pc = s.pc := rfl
@[simp] theorem State.raise_sp (s : State) (k : EventKind) (w : Word) (b : Byte) : (s.raise k w b).sp = s.sp := rfl
@[simp] theorem State.raise_stack (s : State) (k : EventKind) (w : Word) (b : Byte) : (s.raise k w b).stack = s.stack := rfl
@[simp] theorem State.raise_dt (s : State) (k : EventKind) (w : Word) (b : Byte) : (s.raise k w b).dt = s.dt := rfl
@[simp] theorem State.raise_st (s : State) (k : EventKind) (w : Word) (b : Byte) : (s.raise k w b).st = s.st := rfl
@[simp] theorem State.raise_fb (s : State) (k : EventKind) (w : Word) (b : Byte) : (s.raise k w b).fb = s.fb := rfl
@[simp] theorem State.raise_keys (s : State) (k : EventKind) (w : Word) (b : Byte) : (s.raise k w b).keys = s.keys := rfl
@[simp] theorem State.raise_quirks (s : State) (k : EventKind) (w : Word) (b : Byte) : (s.raise k w b).quirks = s.quirks := rfl
@[simp] theorem State.raise_run (s : State) (k : EventKind) (w : Word) (b : Byte) : (s.raise k w b).run = s.run := rfl
@[simp] theorem State.raise_acc (s : State) (k : EventKind) (w : Word) (b : Byte) : (s.raise k w b).acc = s.acc := rfl
@[simp] theorem State.raise_diag (s : State) (k : EventKind) (w : Word) (b : Byte) : (s.raise k w b).diag = s.diag ++ [{ kind := k, opcode := w, value := b }] := rfl
@[simp] theorem State.raise_draws (s : State) (k : EventKind) (w : Word) (b : Byte) : (s.raise k w b).draws = s.draws := rfl
@[simp] theorem State.readV_raise (s : State) (k : EventKind) (w : Word) (b : Byte) (r : Nibble) : (s.raise k w b).readV r = s.readV r := rfl

/-! ### `State.setRun` -/

@[simp] theorem State.setRun_mem (s : State) (r : RunState) : (s.setRun r).mem = s.mem := rfl
@[simp] theorem State.setRun_v (s : State) (r : RunState) : (s.setRun r).v = s.v := rfl
@[simp] theorem State.setRun_i (s : State) (r : RunState) : (s.setRun r).i = s.i := rfl
@[simp] theorem State.setRun_pc (s : State) (r : RunState) : (s.setRun r).pc = s.pc := rfl
@[simp] theorem State.setRun_sp (s : State) (r : RunState) : (s.setRun r).sp = s.sp := rfl
@[simp] theorem State.setRun_stack (s : State) (r : RunState) : (s.setRun r).stack = s.stack := rfl
@[simp] theorem State.setRun_dt (s : State) (r : RunState) : (s.setRun r).dt = s.dt := rfl
@[simp] theorem State.setRun_st (s : State) (r : RunState) : (s.setRun r).st = s.st := rfl
@[simp] theorem State.setRun_fb (s : State) (r : RunState) : (s.setRun r).fb = s.fb := rfl
@[simp] theorem State.setRun_keys (s : State) (r : RunState) : (s.setRun r).keys = s.keys := rfl
@[simp] theorem State.setRun_quirks (s : State) (r : RunState) : (s.setRun r).quirks = s.quirks := rfl
@[simp] theorem State.setRun_run (s : State) (r : RunState) : (s.setRun r).run = r := rfl
@[simp] theorem State.setRun_acc (s : State) (r : RunState) : (s.setRun r).acc = s.acc := rfl
@[simp] theorem State.setRun_diag (s : State) (r : RunState) : (s.setRun r).diag = s.diag := rfl
@[simp] theorem State.setRun_draws (s : State) (r : RunState) : (s.setRun r).draws = s.draws := rfl
@[simp] theorem State.readV_setRun (s : State) (q : RunState) (r : Nibble) : (s.setRun q).readV r = s.readV r := rfl

/-! ### `State.timerPhase` -/

@[simp] theorem State.timerPhase_mem (s : State) (p : Params) (e : Nat) : (s.timerPhase p e).mem = s.mem := rfl
@[simp] theorem State.timerPhase_v (s : State) (p : Params) (e : Nat) : (s.timerPhase p e).v = s.v := rfl
@[simp] theorem State.timerPhase_i (s : State) (p : Params) (e : Nat) : (s.timerPhase p e).i = s.i := rfl
@[simp] theorem State.timerPhase_pc (s : State) (p : Params) (e : Nat) : (s.timerPhase p e).pc = s.pc := rfl
@[simp] theorem State.timerPhase_sp (s : State) (p : Params) (e : Nat) : (s.timerPhase p e).sp = s.sp := rfl
@[simp] theorem State.timerPhase_stack (s : State) (p : Params) (e : Nat) : (s.timerPhase p e).stack = s.stack := rfl
@[simp] theorem State.timerPhase_dt (s : State) (p : Params) (e : Nat) : (s.timerPhase p e).dt = countDown s.dt ((s.acc + e) / p.quantum) := rfl
@[simp] theorem State.timerPhase_st (s : State) (p : Params) (e : Nat) : (s.timerPhase p e).st = countDown s.st ((s.acc + e) / p.quantum) := rfl
@[simp] theorem State.timerPhase_fb (s : State) (p : Params) (e : Nat) : (s.timerPhase p e).fb = s.fb := rfl
@[simp] theorem State.timerPhase_keys (s : State) (p : Params) (e : Nat) : (s.timerPhase p e).keys = s.keys := rfl
@[simp] theorem State.timerPhase_quirks (s : State) (p : Params) (e : Nat) : (s.timerPhase p e).quirks = s.quirks := rfl
@[simp] theorem State.timerPhase_run (s : State) (p : Params) (e : Nat) : (s.timerPhase p e).run = s.run := rfl
@[simp] theorem State.timerPhase_acc (s : State) (p : Params) (e : Nat) : (s.timerPhase p e).acc = (s.acc + e) % p.quantum := rfl
@[simp] theorem State.timerPhase_diag (s : State) (p : Params) (e : Nat) : (s.timerPhase p e).diag = s.diag := rfl
@[simp] theorem State.timerPhase_draws (s : State) (p : Params) (e : Nat) : (s.timerPhase p e).draws = s.draws := rfl
@[simp] theorem State.readV_timerPhase (s : State) (p : Params) (e : Nat) (r : Nibble) : (s.timerPhase p e).readV r = s.readV r := rfl

end Sys2Proof.Machine
end

