-- ==== Sys2Proof/Laws/Memory.lean ====
section
/-! SUPPORT. The laws of memory: a read after a write, and every memory operation keeps the canonical form. -/

namespace Sys2Proof.Machine

/-! ### The list of cells -/

@[simp] theorem Memory.read_nil (a : Nat) : Memory.read [] a = unlistedByte a := rfl

theorem Memory.read_consCell_same {rest : Memory} {a : Nat} (b : Byte) (h : Memory.read rest a = unlistedByte a) :
    Memory.read (Memory.consCell a b rest) a = b := by
  unfold Memory.consCell
  split <;> simp_all [Memory.read]

theorem Memory.read_consCell_ne {rest : Memory} {a a' : Nat} (b : Byte) (h : a' ≠ a) :
    Memory.read (Memory.consCell a b rest) a' = Memory.read rest a' := by
  unfold Memory.consCell
  split <;> simp [Memory.read, h.symm]

/-- An address below every listed one reads as unlisted. -/
theorem Memory.read_eq_unlisted {m : Memory} {a : Nat} (h : ∀ c ∈ m, a < c.1) : Memory.read m a = unlistedByte a := by
  induction m with
  | nil => rfl
  | cons c rest ih =>
    obtain ⟨k, b⟩ := c
    have hk : a < k := h (k, b) (by simp)
    simpa [Memory.read, show k ≠ a by omega] using ih fun c hc => h c (by simp [hc])

/-- A write leaves every other address alone. -/
theorem Memory.read_write_ne {m : Memory} {a a' : Nat} (b : Byte) (h : a' ≠ a) :
    Memory.read (Memory.write m a b) a' = Memory.read m a' := by
  induction m with
  | nil => simp [Memory.write, Memory.read_consCell_ne b h]
  | cons c rest ih =>
    obtain ⟨k, c⟩ := c
    simp only [Memory.write]
    split
    · simp [Memory.read, ih]
    · split
      · next hk => subst hk; simp [Memory.read_consCell_ne b h, Memory.read, h.symm]
      · simp [Memory.read_consCell_ne b h, Memory.read]

/-- A read after a write to the same address gives the byte written. -/
theorem Memory.read_write_same {m : Memory} {a : Nat} {b : Byte} (h : Memory.wf m) :
    Memory.read (Memory.write m a b) a = b := by
  induction m with
  | nil => exact Memory.read_consCell_same b rfl
  | cons c rest ih =>
    obtain ⟨k, c⟩ := c
    obtain ⟨hs, hc⟩ := h
    rw [List.pairwise_cons] at hs
    have hrest : Memory.wf rest := ⟨hs.2, fun c hcr => hc c (by simp [hcr])⟩
    simp only [Memory.write]
    split
    · next hk => simpa [Memory.read, show k ≠ a by omega] using ih hrest
    · split
      · next hk => subst hk; exact Memory.read_consCell_same b (Memory.read_eq_unlisted hs.1)
      · next h1 h2 =>
        refine Memory.read_consCell_same b (Memory.read_eq_unlisted fun c hcr => ?_)
        rcases List.mem_cons.1 hcr with rfl | hcr
        · show a < k; omega
        · have := hs.1 c hcr; simp only at this; omega

/-- The cells of a memory after a write: the cell written, or a cell it had. -/
theorem Memory.mem_write {m : Memory} {a : Nat} {b : Byte} {c : Host.Cell} (h : c ∈ Memory.write m a b) :
    (c = (a, b) ∧ b ≠ unlistedByte a) ∨ c ∈ m := by
  induction m with
  | nil =>
    simp only [Memory.write, Memory.consCell] at h
    split at h <;> simp_all
  | cons d rest ih =>
    obtain ⟨k, d⟩ := d
    simp only [Memory.write, Memory.consCell] at h
    split at h
    · rcases List.mem_cons.1 h with h | h
      · simp [h]
      · rcases ih h with h | h <;> simp [h]
    · split at h <;> split at h <;> simp_all
      tauto

theorem Memory.pairwise_write {m : Memory} {a : Nat} {b : Byte} (h : m.Pairwise fun p q => p.1 < q.1) :
    (Memory.write m a b).Pairwise fun p q => p.1 < q.1 := by
  induction m with
  | nil => simp only [Memory.write, Memory.consCell]; split <;> simp
  | cons d rest ih =>
    obtain ⟨k, d⟩ := d
    rw [List.pairwise_cons] at h
    simp only [Memory.write, Memory.consCell]
    split
    · next hk =>
      refine List.pairwise_cons.2 ⟨fun c hc => ?_, ih h.2⟩
      rcases Memory.mem_write hc with ⟨rfl, -⟩ | hc
      · exact hk
      · exact h.1 c hc
    · split
      · next hk => subst hk; split
                   · exact h.2
                   · exact List.pairwise_cons.2 ⟨h.1, h.2⟩
      · next h1 h2 =>
        have hk : (k, d) :: rest |>.Pairwise fun p q => p.1 < q.1 := List.pairwise_cons.2 h
        split
        · exact hk
        · refine List.pairwise_cons.2 ⟨fun c hc => ?_, hk⟩
          rcases List.mem_cons.1 hc with rfl | hc
          · show a < k; omega
          · have := h.1 c hc; simp only at this; show a < c.1; omega

/-- A write at an address of the array keeps the canonical form. -/
theorem Memory.wf_write {m : Memory} {a : Nat} {b : Byte} (h : Memory.wf m) (ha : a < 4096) :
    Memory.wf (Memory.write m a b) := by
  refine ⟨Memory.pairwise_write h.1, fun c hc => ?_⟩
  rcases Memory.mem_write hc with ⟨rfl, hb⟩ | hc
  · exact ⟨ha, hb⟩
  · exact h.2 c hc

/-! ### Memory in the state -/

theorem State.wf_reset : Memory.wf State.reset.mem := by decide

theorem State.wf_memWrite {s : State} (a : Nat) (b : Byte) (h : Memory.wf s.mem) : Memory.wf (s.memWrite a b).mem :=
  Memory.wf_write h (Nat.mod_lt _ (by simp))

theorem effAddr_lt (i : Word) (k : Nat) : effAddr i k < 4096 := Nat.mod_lt _ (by simp)

/-- The only addresses at which two offsets below 4096 meet are the same offset's. -/
theorem effAddr_inj {i : Word} {j k : Nat} (hj : j < 4096) (hk : k < 4096) (h : effAddr i j = effAddr i k) : j = k := by
  simp only [effAddr, Config.memSize] at h
  omega

theorem State.memRead_eff (s : State) (i : Word) (k : Nat) : s.memRead (effAddr i k) = Memory.read s.mem (effAddr i k) := by
  simp [State.memRead, Nat.mod_eq_of_lt (effAddr_lt i k)]

theorem State.mem_memWrite_eff (s : State) (i : Word) (k : Nat) (b : Byte) :
    (s.memWrite (effAddr i k) b).mem = Memory.write s.mem (effAddr i k) b := by
  simp [Nat.mod_eq_of_lt (effAddr_lt i k)]

/-! ### Successive stores -/

/-- Successive stores change memory only. -/
theorem State.storeBytes_eq (s : State) (i : Word) (k : Nat) (bs : List Byte) :
    s.storeBytes i k bs = { s with mem := (s.storeBytes i k bs).mem } := by
  induction bs generalizing s k with
  | nil => rfl
  | cons b bs ih => rw [State.storeBytes, ih]; rfl

theorem State.wf_storeBytes {s : State} (i : Word) (k : Nat) (bs : List Byte) (h : Memory.wf s.mem) :
    Memory.wf (s.storeBytes i k bs).mem := by
  induction bs generalizing s k with
  | nil => exact h
  | cons b bs ih => exact ih _ (State.wf_memWrite _ b h)

/-- Outside the bytes stored to, memory reads as before. -/
theorem State.read_storeBytes_outside {s : State} {i : Word} {k a : Nat} {bs : List Byte}
    (h : ∀ j < bs.length, a ≠ effAddr i (k + j)) :
    Memory.read (s.storeBytes i k bs).mem a = Memory.read s.mem a := by
  induction bs generalizing s k with
  | nil => rfl
  | cons b bs ih =>
    rw [State.storeBytes, ih, State.mem_memWrite_eff, Memory.read_write_ne]
    · simpa using h 0 (by simp)
    · intro j hj
      have := h (j + 1) (by simpa using hj)
      rwa [show k + (j + 1) = k + 1 + j by omega] at this

/-- The j-th byte stored is what its address reads as, where the stores do not meet. -/
theorem State.read_storeBytes_inside {s : State} {i : Word} {k j : Nat} {bs : List Byte} (h : Memory.wf s.mem)
    (hl : k + bs.length ≤ 4096) (hj : j < bs.length) :
    Memory.read (s.storeBytes i k bs).mem (effAddr i (k + j)) = bs[j] := by
  induction bs generalizing s k j with
  | nil => simp at hj
  | cons b bs ih =>
    rw [State.storeBytes]
    simp only [List.length_cons] at hl hj
    cases j with
    | zero =>
      rw [State.read_storeBytes_outside, State.mem_memWrite_eff]
      · simpa using Memory.read_write_same h
      · intro j hj' he
        have := effAddr_inj (by omega) (by omega) he
        omega
    | succ j =>
      rw [show k + (j + 1) = k + 1 + j by omega]
      simpa using ih (State.wf_memWrite _ b h) (by omega) (by omega)

/-! ### Reset at given parameters -/

/-- Reset with parameters differs from the reference reset in the switches and the font only. -/
theorem State.resetWith_eq (p : Params) :
    State.resetWith p = { State.reset with quirks := p.quirkReset, mem := (State.resetWith p).mem } :=
  State.storeBytes_eq _ _ _ _

theorem State.wf_resetWith (p : Params) : Memory.wf (State.resetWith p).mem := State.wf_storeBytes _ _ _ State.wf_reset

/-- The font lies where Reset puts it. -/
theorem State.read_resetWith_font (p : Params) {a : Nat} (ha : a < 80) :
    Memory.read (State.resetWith p).mem a = p.fontRom[a] := by
  have h := State.read_storeBytes_inside (s := { State.reset with quirks := p.quirkReset }) (i := 0#16) (k := 0) (j := a)
    (bs := p.fontRom.toList) State.wf_reset (by simp) (by simpa using ha)
  simpa [State.resetWith, effAddr, Nat.mod_eq_of_lt (show a < 4096 by omega)] using h

/-- Outside the font Reset leaves the reference contents. -/
theorem State.read_resetWith_outside (p : Params) {a : Nat} (ha : 80 ≤ a) :
    Memory.read (State.resetWith p).mem a = unlistedByte a := by
  refine State.read_storeBytes_outside fun j hj => ?_
  have : j < 80 := by simpa using hj
  simp [effAddr]
  omega

/-! ### The fetch -/

/-- The next fetch reads the word stored at PC. -/
theorem State.fetchWord_storeWordAtPc {s : State} (w : Word) (h : Memory.wf s.mem) : (s.storeWordAtPc w).fetchWord = w := by
  have hne : s.pc.toNat % 4096 ≠ (s.pc.toNat + 1) % 4096 := by omega
  have hhi : (s.storeWordAtPc w).memRead s.pc.toNat = Word.highByte w := by
    simp only [State.storeWordAtPc, State.memRead, State.memWrite_mem, Config.memSize]
    rw [Memory.read_write_ne _ hne, Memory.read_write_same h]
  have hlo : (s.storeWordAtPc w).memRead (s.pc.toNat + 1) = Word.lowByte w := by
    simp only [State.storeWordAtPc, State.memRead, State.memWrite_mem, Config.memSize]
    exact Memory.read_write_same (State.wf_memWrite s.pc.toNat _ h)
  have hpc : (s.storeWordAtPc w).pc = s.pc := rfl
  rw [State.fetchWord, hpc, hhi, hlo]
  exact BitVec.eq_of_getLsbD_eq fun j hj => by
    simp only [wordOfBytes, Word.highByte, Word.lowByte, BitVec.getLsbD_append, BitVec.getLsbD_extractLsb']
    by_cases h8 : j < 8
    · simp [h8]
    · simp [h8]; grind

end Sys2Proof.Machine
end

