-- ==== Sys2Proof/Laws/Ops.lean ====
section
/-! SUPPORT. What each shared operation does, said once: registers and flags, PC and I, the call stack, the framebuffer, the
keypad scan, the bulk transfers, the step and the sequencing of results. -/

namespace Sys2Proof.Machine

/-! ### General registers and the flag -/

@[simp] theorem State.readV_writeV_same (s : State) (x : Nibble) (b : Byte) : (s.writeV x b).readV x = b := by
  simp [State.readV]

@[simp] theorem State.readV_writeV_ne (s : State) {x r : Nibble} (b : Byte) (h : r ≠ x) :
    (s.writeV x b).readV r = s.readV r := by
  have : x.toNat ≠ r.toNat := fun e => h (BitVec.eq_of_toNat_eq e.symm)
  simp [State.readV, this]

/-- Every register after a write. -/
theorem State.readV_writeV (s : State) (x r : Nibble) (b : Byte) :
    (s.writeV x b).readV r = if r = x then b else s.readV r := by
  split
  · next h => rw [h, State.readV_writeV_same]
  · next h => rw [State.readV_writeV_ne _ _ h]

/-- Every register after a flag write: VF alone has changed. -/
theorem State.readV_setFlag (s : State) (f : Bool) (r : Nibble) :
    (s.setFlag f).readV r = if r = 15#4 then flagByte f else s.readV r := State.readV_writeV s _ r _

/-- Every register after a result and its flag: the flag in VF, the result in V[X] where X is not 15 (41_alu R153). -/
theorem State.readV_writeResultFlag (s : State) (x r : Nibble) (b : Byte) (f : Bool) :
    (s.writeResultFlag x b f).readV r = if r = 15#4 then flagByte f else if r = x then b else s.readV r := by
  rw [State.writeResultFlag, State.readV_setFlag, State.readV_writeV]

/-- Beside the registers, a result and its flag change nothing. -/
theorem State.writeResultFlag_eq (s : State) (x : Nibble) (b : Byte) (f : Bool) :
    s.writeResultFlag x b f = { s with v := (s.writeResultFlag x b f).v } := rfl

@[simp] theorem validIndex_iff (b : Byte) : validIndex b = true ↔ b.toNat ≤ 15 := by simp [validIndex]

@[simp] theorem carryFlag_iff (a b : Byte) : carryFlag a b = true ↔ 255 < a.toNat + b.toNat := by simp [carryFlag]

@[simp] theorem notBorrowFlag_iff (a b : Byte) : notBorrowFlag a b = true ↔ b.toNat ≤ a.toNat := by simp [notBorrowFlag]

/-! ### PC and I -/

theorem State.toNat_setPc (s : State) (t : Nat) : (s.setPc t).pc.toNat = t % 4096 := by simp; omega

theorem State.toNat_setI (s : State) (t : Nat) : (s.setI t).i.toNat = t % 4096 := by simp; omega

theorem State.setPc_lt (s : State) (t : Nat) : (s.setPc t).pc.toNat < 4096 := by rw [State.toNat_setPc]; omega

theorem State.setI_lt (s : State) (t : Nat) : (s.setI t).i.toNat < 4096 := by rw [State.toNat_setI]; omega

/-- A skip moves PC alone. -/
theorem State.skipIf_eq (s : State) (c : Bool) : s.skipIf c = { s with pc := (s.skipIf c).pc } := by cases c <;> rfl

theorem State.skipIf_pc (s : State) (c : Bool) :
    (s.skipIf c).pc = if c then BitVec.ofNat 16 ((s.pc.toNat + 2) % 4096) else s.pc := by cases c <;> rfl

/-- After a bulk transfer only I can have changed. -/
theorem State.bulkIndex_eq (s : State) (x : Nibble) : s.bulkIndex x = { s with i := (s.bulkIndex x).i } := by
  unfold State.bulkIndex
  split <;> rfl

theorem State.bulkIndex_i (s : State) (x : Nibble) :
    (s.bulkIndex x).i = if s.quirks.qc then s.i else BitVec.ofNat 16 ((s.i.toNat + x.toNat + 1) % 4096) := by
  unfold State.bulkIndex
  split <;> rfl

/-! ### The framebuffer -/

@[simp] theorem Framebuffer.pixel_blank (y x : Nat) : Framebuffer.blank.pixel y x = false := by
  simp only [Framebuffer.pixel, Framebuffer.blank]
  by_cases h : y < 32 <;> simp [h]

/-- Toggling a pixel of the grid turns that pixel over and leaves every other one alone. -/
theorem Framebuffer.pixel_toggle (fb : Framebuffer) {y x : Nat} (hy : y < 32) (hx : x < 64) (y' x' : Nat) :
    (fb.toggle y x).pixel y' x' = if y' = y ∧ x' = x then !fb.pixel y x else fb.pixel y' x' := by
  simp only [Framebuffer.toggle, Framebuffer.pixel, Vector.getElem?_setIfInBounds]
  by_cases h : y = y'
  · subst h
    by_cases hxx : x = x'
    · subst hxx; simp [hy, hx]
    · simp [hy, hxx, Ne.symm hxx, BitVec.getLsbD_twoPow]
  · simp [h, Ne.symm h]

/-- A pixel that is placed is on the grid. -/
theorem placePixel_some {qb : Bool} {px py x y : Nat} (h : placePixel qb px py = some (x, y)) : x < 64 ∧ y < 32 := by
  cases qb with
  | true =>
    simp only [placePixel, if_true, Option.some.injEq, Prod.mk.injEq] at h
    exact ⟨h.1 ▸ Nat.mod_lt px (by decide), h.2 ▸ Nat.mod_lt py (by decide)⟩
  | false => simp [placePixel] at h; omega

/-! ### Keys -/

theorem State.keyDown_eq (s : State) {k : Nat} (hk : k < 16) : s.keyDown k = s.keys[k] := by simp [State.keyDown, hk]

theorem State.leastKeyDown_eq_none (s : State) : s.leastKeyDown = none ↔ ∀ k (hk : k < 16), s.keys[k] = false := by
  simp only [State.leastKeyDown, List.find?_eq_none, List.mem_range, Config.nKeys]
  exact ⟨fun h k hk => by simpa [State.keyDown_eq s hk] using h k hk,
    fun h k hk => by simp [State.keyDown_eq s hk, h k hk]⟩

/-- The keypad scan answers the least key that is down (43_keys_timers R172). -/
theorem State.leastKeyDown_eq_some (s : State) {k : Nat} (hk : k < 16) (hd : s.keys[k] = true)
    (hl : ∀ j (hj : j < k), s.keys[j] = false) : s.leastKeyDown = some k := by
  simp only [State.leastKeyDown, Config.nKeys, List.find?_range_eq_some]
  exact ⟨by rw [State.keyDown_eq s hk, hd], by simpa using hk, fun j hj => by
    simp [State.keyDown_eq s (show j < 16 by omega), hl j hj]⟩

/-! ### Bulk transfers -/

theorem State.length_lowRegs (s : State) (x : Nibble) : (s.lowRegs x).length = x.toNat + 1 := by
  have := x.isLt
  simp [State.lowRegs]; omega

theorem State.getElem_lowRegs (s : State) (x : Nibble) {k : Nat} (hk : k < (s.lowRegs x).length) :
    (s.lowRegs x)[k] = s.readV (BitVec.ofNat 4 k) := by
  have h : k < 16 := by rw [State.length_lowRegs] at hk; have := x.isLt; omega
  have hm : k % 16 = k := Nat.mod_eq_of_lt h
  simp [State.lowRegs, State.readV, hm]

/-- The registers after a bulk load: V[0..X] from memory, the others as they were. -/
theorem State.readV_loadedRegs (s : State) (x r : Nibble) :
    ({ s with v := s.loadedRegs x } : State).readV r =
      if r.toNat ≤ x.toNat then s.memRead (effAddr s.i r.toNat) else s.readV r := by
  simp [State.readV, State.loadedRegs]

/-! ### The step and the sequencing of results -/

theorem step_recognised {s : State} {i : Instr} (h : decode s.fetchWord = .recognised i) : step s = exec i s.advancePc := by
  simp [step, h]

theorem step_unrecognised {s : State} {w : Word} (h : decode s.fetchWord = .unrecognised w) :
    step s = .next (s.advancePc.raise .unrecognizedOpcode w 0) := by
  simp [step, h, State.reportUnrecognized]

/-- A step answers a next state by running an instruction, or by reporting an unrecognised word. -/
theorem step_cases {s t : State} (h : step s = .next t) :
    (∃ i, decode s.fetchWord = .recognised i ∧ exec i s.advancePc = .next t) ∨
      ∃ w, decode s.fetchWord = .unrecognised w ∧ t = s.advancePc.raise .unrecognizedOpcode w 0 := by
  cases hd : decode s.fetchWord with
  | recognised i => exact .inl ⟨i, rfl, by rwa [step_recognised hd] at h⟩
  | unrecognised w => exact .inr ⟨w, rfl, by rw [step_unrecognised hd] at h; exact (Host.Outcome.next.inj h).symm⟩

/-- The word placed where the next step fetches is the one it runs. -/
theorem fetchWord_withFetchWord {s : State} {w : Nat} (h : Memory.wf s.mem) (hw : w < 2 ^ 16) :
    (s.withFetchWord 16 w).fetchWord = BitVec.ofNat 16 w := by
  rw [State.withFetchWord, State.fetchWord_storeWordAtPc _ h, Nat.mod_eq_of_lt hw]

/-- A step that changes nothing may be taken any number of times. -/
theorem slots_of_step_self {s : State} (h : step s = .next s) (k : Nat) : slots k s = .next s := by
  induction k with
  | zero => rfl
  | succ k ih => simp [slots, h, Result.andThen, ih]

theorem Result.andThen_eq_next {r : Result} {f : State → Result} {t : State} :
    Result.andThen r f = .next t ↔ ∃ s, r = .next s ∧ f s = .next t := by
  cases r <;> simp [Result.andThen]

/-- The slots of a tick are the host's own run of the machine. -/
theorem slots_eq_run (k : Nat) (s : State) : slots k s = Host.Core.run Sys2Proof.core k s := by
  induction k generalizing s with
  | zero => rfl
  | succ k ih =>
    simp only [slots, Host.Core.run, Sys2Proof.core] at ih ⊢
    cases step s with
    | next t => exact ih t
    | fault e => rfl
    | refused e => rfl

theorem toNat_countDown (t : Byte) (n : Nat) : (countDown t n).toNat = t.toNat - n := by
  have := t.isLt
  simp only [countDown, BitVec.toNat_ofNat]
  rw [Nat.mod_eq_of_lt (by omega)]
  omega

end Sys2Proof.Machine
end

