-- ==== Sys2Proof/Laws/PerInstr.lean ====
section
/-! SUPPORT. Statements for all instructions, one lemma per constructor. Family RowPattern: the word of a well-formed instruction
passes its own row of the opcode map (30_encoding R98), row 1's exclusion included. -/

namespace Sys2Proof.Laws.RowPattern

/-- The encoded word passes the row of R98 the instruction belongs to. -/
def Statement (i : Instr) : Prop :=
  i.wellFormed = true → ∃ row ∈ opcodeRows, row.1 = i.rowNumber ∧ passesRow (encode i) row = true

theorem and_ones4 (b : Nibble) : b &&& 0xF#4 = b := BitVec.and_allOnes

theorem and_ones8 (b : Byte) : b &&& 0xFF#8 = b := BitVec.and_allOnes

theorem mask_nnn (g : Nibble) (nnn : Addr) : (g ++ nnn : Word) &&& 0xF000 = g ++ 0#12 :=
  (BitVec.and_append (x₂ := 0xF#4) (y₂ := 0#12)).trans (by rw [and_ones4, BitVec.and_zero])

theorem mask_xnn (g x : Nibble) (nn : Byte) : (g ++ x ++ nn : Word) &&& 0xF000 = g ++ 0#4 ++ 0#8 :=
  (BitVec.and_append (x₂ := 0xF#4 ++ 0#4) (y₂ := 0#8)).trans
    (by rw [BitVec.and_append, and_ones4, BitVec.and_zero, BitVec.and_zero])

theorem mask_xyn (g x y n : Nibble) : (g ++ x ++ y ++ n : Word) &&& 0xF000 = g ++ 0#4 ++ 0#4 ++ 0#4 :=
  (BitVec.and_append (x₂ := 0xF#4 ++ 0#4 ++ 0#4) (y₂ := 0#4)).trans
    (by rw [BitVec.and_append, BitVec.and_append, and_ones4]; simp only [BitVec.and_zero])

theorem mask_xy (g x y n : Nibble) : (g ++ x ++ y ++ n : Word) &&& 0xF00F = g ++ 0#4 ++ 0#4 ++ n :=
  (BitVec.and_append (x₂ := 0xF#4 ++ 0#4 ++ 0#4) (y₂ := 0xF#4)).trans
    (by rw [BitVec.and_append, BitVec.and_append, and_ones4, and_ones4]; simp only [BitVec.and_zero])

theorem mask_x (g x : Nibble) (nn : Byte) : (g ++ x ++ nn : Word) &&& 0xF0FF = g ++ 0#4 ++ nn :=
  (BitVec.and_append (x₂ := 0xF#4 ++ 0#4) (y₂ := 0xFF#8)).trans
    (by rw [BitVec.and_append, and_ones4, and_ones8, BitVec.and_zero])

/-- Masking a group word with 0x00FF compares its low byte. -/
theorem low_ne {g : Nibble} {nnn : Addr} {b : Byte} (h : Addr.lowByte nnn ≠ b) :
    (g ++ nnn : Word) &&& 0x00FF ≠ 0#8 ++ b := fun e => h (BitVec.eq_of_getLsbD_eq fun j hj => by
  have e' := congrArg (fun w : Word => w.getLsbD j) e
  have hm : (0x00FF : Word).getLsbD j = true := by interval_cases j <;> rfl
  simp only [BitVec.getLsbD_and, hm, Bool.and_true, BitVec.getLsbD_append] at e'
  simp only [Addr.lowByte, BitVec.getLsbD_extractLsb']
  grind)

/-- A row other than row 1 is passed by a word whose masked bits are its match. -/
theorem of_mask {i : Instr} {mask pattern : Word} (hr : (i.rowNumber, mask, pattern) ∈ opcodeRows)
    (h1 : i.rowNumber ≠ 1) (h : encode i &&& mask = pattern) : Statement i :=
  fun _ => ⟨_, hr, rfl, by simp [passesRow, h, h1]⟩

theorem sys (nnn : Addr) : Statement (.sys nnn) := by
  intro h
  simp only [Instr.wellFormed, Bool.and_eq_true, bne_iff_ne] at h
  have h0 : encode (.sys nnn) &&& 0xF000 = 0x0000 := mask_nnn 0x0#4 nnn
  have hE0 : encode (.sys nnn) &&& 0x00FF ≠ 0x00E0 := low_ne (g := 0x0#4) h.1
  have hEE : encode (.sys nnn) &&& 0x00FF ≠ 0x00EE := low_ne (g := 0x0#4) h.2
  exact ⟨(1, 0xF000, 0x0000), by decide, rfl, by simp [passesRow]; exact ⟨h0, hE0, hEE⟩⟩

theorem jp (nnn : Addr) : Statement (.jp nnn) :=
  of_mask (mask := 0xF000) (pattern := 0x1000) (by simp [Instr.rowNumber, opcodeRows]) (by simp [Instr.rowNumber])
    (mask_nnn 0x1#4 nnn)
theorem call (nnn : Addr) : Statement (.call nnn) :=
  of_mask (mask := 0xF000) (pattern := 0x2000) (by simp [Instr.rowNumber, opcodeRows]) (by simp [Instr.rowNumber])
    (mask_nnn 0x2#4 nnn)
theorem ldI (nnn : Addr) : Statement (.ldI nnn) :=
  of_mask (mask := 0xF000) (pattern := 0xA000) (by simp [Instr.rowNumber, opcodeRows]) (by simp [Instr.rowNumber])
    (mask_nnn 0xA#4 nnn)
theorem jpV0 (nnn : Addr) : Statement (.jpV0 nnn) :=
  of_mask (mask := 0xF000) (pattern := 0xB000) (by simp [Instr.rowNumber, opcodeRows]) (by simp [Instr.rowNumber])
    (mask_nnn 0xB#4 nnn)
theorem seImm (x : Nibble) (nn : Byte) : Statement (.seImm x nn) :=
  of_mask (mask := 0xF000) (pattern := 0x3000) (by simp [Instr.rowNumber, opcodeRows]) (by simp [Instr.rowNumber])
    (mask_xnn 0x3#4 x nn)
theorem sneImm (x : Nibble) (nn : Byte) : Statement (.sneImm x nn) :=
  of_mask (mask := 0xF000) (pattern := 0x4000) (by simp [Instr.rowNumber, opcodeRows]) (by simp [Instr.rowNumber])
    (mask_xnn 0x4#4 x nn)
theorem ldImm (x : Nibble) (nn : Byte) : Statement (.ldImm x nn) :=
  of_mask (mask := 0xF000) (pattern := 0x6000) (by simp [Instr.rowNumber, opcodeRows]) (by simp [Instr.rowNumber])
    (mask_xnn 0x6#4 x nn)
theorem addImm (x : Nibble) (nn : Byte) : Statement (.addImm x nn) :=
  of_mask (mask := 0xF000) (pattern := 0x7000) (by simp [Instr.rowNumber, opcodeRows]) (by simp [Instr.rowNumber])
    (mask_xnn 0x7#4 x nn)
theorem rnd (x : Nibble) (nn : Byte) : Statement (.rnd x nn) :=
  of_mask (mask := 0xF000) (pattern := 0xC000) (by simp [Instr.rowNumber, opcodeRows]) (by simp [Instr.rowNumber])
    (mask_xnn 0xC#4 x nn)
theorem seReg (x y : Nibble) : Statement (.seReg x y) :=
  of_mask (mask := 0xF00F) (pattern := 0x5000) (by simp [Instr.rowNumber, opcodeRows]) (by simp [Instr.rowNumber])
    (mask_xy 0x5#4 x y 0x0#4)
theorem ldReg (x y : Nibble) : Statement (.ldReg x y) :=
  of_mask (mask := 0xF00F) (pattern := 0x8000) (by simp [Instr.rowNumber, opcodeRows]) (by simp [Instr.rowNumber])
    (mask_xy 0x8#4 x y 0x0#4)
theorem orReg (x y : Nibble) : Statement (.orReg x y) :=
  of_mask (mask := 0xF00F) (pattern := 0x8001) (by simp [Instr.rowNumber, opcodeRows]) (by simp [Instr.rowNumber])
    (mask_xy 0x8#4 x y 0x1#4)
theorem andReg (x y : Nibble) : Statement (.andReg x y) :=
  of_mask (mask := 0xF00F) (pattern := 0x8002) (by simp [Instr.rowNumber, opcodeRows]) (by simp [Instr.rowNumber])
    (mask_xy 0x8#4 x y 0x2#4)
theorem xorReg (x y : Nibble) : Statement (.xorReg x y) :=
  of_mask (mask := 0xF00F) (pattern := 0x8003) (by simp [Instr.rowNumber, opcodeRows]) (by simp [Instr.rowNumber])
    (mask_xy 0x8#4 x y 0x3#4)
theorem addReg (x y : Nibble) : Statement (.addReg x y) :=
  of_mask (mask := 0xF00F) (pattern := 0x8004) (by simp [Instr.rowNumber, opcodeRows]) (by simp [Instr.rowNumber])
    (mask_xy 0x8#4 x y 0x4#4)
theorem sub (x y : Nibble) : Statement (.sub x y) :=
  of_mask (mask := 0xF00F) (pattern := 0x8005) (by simp [Instr.rowNumber, opcodeRows]) (by simp [Instr.rowNumber])
    (mask_xy 0x8#4 x y 0x5#4)
theorem shr (x y : Nibble) : Statement (.shr x y) :=
  of_mask (mask := 0xF00F) (pattern := 0x8006) (by simp [Instr.rowNumber, opcodeRows]) (by simp [Instr.rowNumber])
    (mask_xy 0x8#4 x y 0x6#4)
theorem subn (x y : Nibble) : Statement (.subn x y) :=
  of_mask (mask := 0xF00F) (pattern := 0x8007) (by simp [Instr.rowNumber, opcodeRows]) (by simp [Instr.rowNumber])
    (mask_xy 0x8#4 x y 0x7#4)
theorem shl (x y : Nibble) : Statement (.shl x y) :=
  of_mask (mask := 0xF00F) (pattern := 0x800E) (by simp [Instr.rowNumber, opcodeRows]) (by simp [Instr.rowNumber])
    (mask_xy 0x8#4 x y 0xE#4)
theorem sneReg (x y : Nibble) : Statement (.sneReg x y) :=
  of_mask (mask := 0xF00F) (pattern := 0x9000) (by simp [Instr.rowNumber, opcodeRows]) (by simp [Instr.rowNumber])
    (mask_xy 0x9#4 x y 0x0#4)
theorem drw (x y n : Nibble) : Statement (.drw x y n) :=
  of_mask (mask := 0xF000) (pattern := 0xD000) (by simp [Instr.rowNumber, opcodeRows]) (by simp [Instr.rowNumber])
    (mask_xyn 0xD#4 x y n)
theorem cls (x : Nibble) : Statement (.cls x) :=
  of_mask (mask := 0xF0FF) (pattern := 0x00E0) (by simp [Instr.rowNumber, opcodeRows]) (by simp [Instr.rowNumber])
    (mask_x 0x0#4 x 0xE0#8)
theorem ret (x : Nibble) : Statement (.ret x) :=
  of_mask (mask := 0xF0FF) (pattern := 0x00EE) (by simp [Instr.rowNumber, opcodeRows]) (by simp [Instr.rowNumber])
    (mask_x 0x0#4 x 0xEE#8)
theorem skp (x : Nibble) : Statement (.skp x) :=
  of_mask (mask := 0xF0FF) (pattern := 0xE09E) (by simp [Instr.rowNumber, opcodeRows]) (by simp [Instr.rowNumber])
    (mask_x 0xE#4 x 0x9E#8)
theorem sknp (x : Nibble) : Statement (.sknp x) :=
  of_mask (mask := 0xF0FF) (pattern := 0xE0A1) (by simp [Instr.rowNumber, opcodeRows]) (by simp [Instr.rowNumber])
    (mask_x 0xE#4 x 0xA1#8)
theorem ldVxDt (x : Nibble) : Statement (.ldVxDt x) :=
  of_mask (mask := 0xF0FF) (pattern := 0xF007) (by simp [Instr.rowNumber, opcodeRows]) (by simp [Instr.rowNumber])
    (mask_x 0xF#4 x 0x07#8)
theorem ldVxK (x : Nibble) : Statement (.ldVxK x) :=
  of_mask (mask := 0xF0FF) (pattern := 0xF00A) (by simp [Instr.rowNumber, opcodeRows]) (by simp [Instr.rowNumber])
    (mask_x 0xF#4 x 0x0A#8)
theorem ldDtVx (x : Nibble) : Statement (.ldDtVx x) :=
  of_mask (mask := 0xF0FF) (pattern := 0xF015) (by simp [Instr.rowNumber, opcodeRows]) (by simp [Instr.rowNumber])
    (mask_x 0xF#4 x 0x15#8)
theorem ldStVx (x : Nibble) : Statement (.ldStVx x) :=
  of_mask (mask := 0xF0FF) (pattern := 0xF018) (by simp [Instr.rowNumber, opcodeRows]) (by simp [Instr.rowNumber])
    (mask_x 0xF#4 x 0x18#8)
theorem addI (x : Nibble) : Statement (.addI x) :=
  of_mask (mask := 0xF0FF) (pattern := 0xF01E) (by simp [Instr.rowNumber, opcodeRows]) (by simp [Instr.rowNumber])
    (mask_x 0xF#4 x 0x1E#8)
theorem ldF (x : Nibble) : Statement (.ldF x) :=
  of_mask (mask := 0xF0FF) (pattern := 0xF029) (by simp [Instr.rowNumber, opcodeRows]) (by simp [Instr.rowNumber])
    (mask_x 0xF#4 x 0x29#8)
theorem ldB (x : Nibble) : Statement (.ldB x) :=
  of_mask (mask := 0xF0FF) (pattern := 0xF033) (by simp [Instr.rowNumber, opcodeRows]) (by simp [Instr.rowNumber])
    (mask_x 0xF#4 x 0x33#8)
theorem storeRegs (x : Nibble) : Statement (.storeRegs x) :=
  of_mask (mask := 0xF0FF) (pattern := 0xF055) (by simp [Instr.rowNumber, opcodeRows]) (by simp [Instr.rowNumber])
    (mask_x 0xF#4 x 0x55#8)
theorem loadRegs (x : Nibble) : Statement (.loadRegs x) :=
  of_mask (mask := 0xF0FF) (pattern := 0xF065) (by simp [Instr.rowNumber, opcodeRows]) (by simp [Instr.rowNumber])
    (mask_x 0xF#4 x 0x65#8)

end Sys2Proof.Laws.RowPattern
end

