-- ==== Sys2Proof/Tests/Slice0.lean ====
section
/-! SUPPORT. Tests of the model: well-formedness, decoding, at most two single steps an instruction, the scheduler and the host's
operations, and the witnesses of the obligations' hypotheses. Expected results come from spec/95_test_vectors.md (the id of the
vector stands in each comment) or from the rule named. -/

namespace Sys2Proof.Tests

open Sys2Proof Sys2Proof.Machine

/-! ### Helpers -/

/-- The next state, if there is one. -/
def nextOf : Result → Option State
  | .next s => some s
  | _ => none

/-- One step with the word `w` placed where it fetches (the convention of 95_test_vectors). -/
def ran (s : State) (w : Nat) : Option State := nextOf (step (s.withFetchWord 16 w))

theorem exists_next {r : Result} (h : (nextOf r).isSome = true) : ∃ t, r = .next t := by
  cases r with
  | next t => exact ⟨t, rfl⟩
  | fault e => simp [nextOf] at h
  | refused e => simp [nextOf] at h

/-- The reset state with two registers written. -/
def with2 (x : Nibble) (a : Byte) (y : Nibble) (b : Byte) : State := (State.reset.writeV x a).writeV y b

/-- `s` with the quirk switches (QA, QB, QC). -/
def quirked (s : State) (a b c : Bool) : State := s.setQuirks a b c

/-- `s` with I = `i` and the bytes `bs` in memory from there. -/
def placed (s : State) (i : Word) (bs : List Byte) : State := { s with i := i }.storeBytes i 0 bs

/-- The reset framebuffer with pixel (x, y) set. -/
def lit (s : State) (y x : Nat) : State := s.setFb (s.fb.toggle y x)

/-! ### Well-formedness: row 1's two exclusions (30_encoding R98, R99) -/

theorem test_sys_with_low_byte_e0_is_ill_formed : (Instr.sys 0x1E0).wellFormed = false := by decide
theorem test_sys_with_low_byte_ee_is_ill_formed : (Instr.sys 0x0EE).wellFormed = false := by decide
theorem test_sys_zero_is_well_formed : (Instr.sys 0x000).wellFormed = true := by decide

/-! ### Decoding: one word an instruction, written out from the patterns of 30_encoding R98 -/

theorem test_decode_sys : decode 0b0000000100100011 = .recognised (.sys 0x123) := by decide
theorem test_decode_cls : decode 0b0000000011100000 = .recognised (.cls 0x0) := by decide
theorem test_decode_cls_with_x : decode 0b0000000111100000 = .recognised (.cls 0x1) := by decide
theorem test_decode_ret : decode 0b0000000011101110 = .recognised (.ret 0x0) := by decide
theorem test_decode_ret_with_x : decode 0b0000101011101110 = .recognised (.ret 0xA) := by decide
theorem test_decode_jp : decode 0b0001101010111100 = .recognised (.jp 0xABC) := by decide
theorem test_decode_call : decode 0b0010010001010110 = .recognised (.call 0x456) := by decide
theorem test_decode_seImm : decode 0b0011101001000010 = .recognised (.seImm 0xA 0x42) := by decide
theorem test_decode_sneImm : decode 0b0100101001000010 = .recognised (.sneImm 0xA 0x42) := by decide
theorem test_decode_seReg : decode 0b0101101010110000 = .recognised (.seReg 0xA 0xB) := by decide
theorem test_decode_ldImm : decode 0b0110101011111111 = .recognised (.ldImm 0xA 0xFF) := by decide
theorem test_decode_addImm : decode 0b0111101000000001 = .recognised (.addImm 0xA 0x01) := by decide
theorem test_decode_ldReg : decode 0b1000101010110000 = .recognised (.ldReg 0xA 0xB) := by decide
theorem test_decode_orReg : decode 0b1000101010110001 = .recognised (.orReg 0xA 0xB) := by decide
theorem test_decode_andReg : decode 0b1000101010110010 = .recognised (.andReg 0xA 0xB) := by decide
theorem test_decode_xorReg : decode 0b1000101010110011 = .recognised (.xorReg 0xA 0xB) := by decide
theorem test_decode_addReg : decode 0b1000000000010100 = .recognised (.addReg 0x0 0x1) := by decide
theorem test_decode_sub : decode 0b1000000000010101 = .recognised (.sub 0x0 0x1) := by decide
theorem test_decode_shr : decode 0b1000001000010110 = .recognised (.shr 0x2 0x1) := by decide
theorem test_decode_subn : decode 0b1000000000010111 = .recognised (.subn 0x0 0x1) := by decide
theorem test_decode_shl : decode 0b1000001000011110 = .recognised (.shl 0x2 0x1) := by decide
theorem test_decode_sneReg : decode 0b1001101010110000 = .recognised (.sneReg 0xA 0xB) := by decide
theorem test_decode_ldI : decode 0b1010000100100011 = .recognised (.ldI 0x123) := by decide
theorem test_decode_jpV0 : decode 0b1011001100000000 = .recognised (.jpV0 0x300) := by decide
theorem test_decode_rnd : decode 0b1100101000001111 = .recognised (.rnd 0xA 0x0F) := by decide
theorem test_decode_drw : decode 0b1101011110100101 = .recognised (.drw 0x7 0xA 0x5) := by decide
theorem test_decode_skp : decode 0b1110001110011110 = .recognised (.skp 0x3) := by decide
theorem test_decode_sknp : decode 0b1110001110100001 = .recognised (.sknp 0x3) := by decide
theorem test_decode_ldVxDt : decode 0b1111001100000111 = .recognised (.ldVxDt 0x3) := by decide
theorem test_decode_ldVxK : decode 0b1111001100001010 = .recognised (.ldVxK 0x3) := by decide
theorem test_decode_ldDtVx : decode 0b1111001100010101 = .recognised (.ldDtVx 0x3) := by decide
theorem test_decode_ldStVx : decode 0b1111001100011000 = .recognised (.ldStVx 0x3) := by decide
theorem test_decode_addI : decode 0b1111001100011110 = .recognised (.addI 0x3) := by decide
theorem test_decode_ldF : decode 0b1111001100101001 = .recognised (.ldF 0x3) := by decide
theorem test_decode_ldB : decode 0b1111001100110011 = .recognised (.ldB 0x3) := by decide
theorem test_decode_storeRegs : decode 0b1111001101010101 = .recognised (.storeRegs 0x3) := by decide
theorem test_decode_loadRegs : decode 0b1111001101100101 = .recognised (.loadRegs 0x3) := by decide

/-- The unrecognised words of vector S9. -/
theorem test_decode_unrecognised : decode 0x5121 = .unrecognised 0x5121 ∧ decode 0x8009 = .unrecognised 0x8009 ∧
    decode 0xE000 = .unrecognised 0xE000 ∧ decode 0xF0FF = .unrecognised 0xF0FF := by decide

/-- The bytes of a table word lie high byte first. -/
theorem test_decode_table_word : decodeTableWord 16 0x6A2B = some (.ldImm 0xA 0x2B) := by decide

/-! ### Single steps -/

/-- F19. -/
theorem test_sys_reports : (ran State.reset 0x0123).map (fun t => (t.pc, t.diag.map Event.record)) =
    some (0x202, [(6, 0x0123, 0)]) := by decide

/-- F18, a non-canonical word. -/
theorem test_ret_pops : (ran { State.reset with sp := 1, stack := State.reset.stack.set 0 0x222 } 0x0AEE).map (fun t => (t.sp, t.pc)) =
    some (0, 0x222) := by decide

/-- F15 with the word of F18. -/
theorem test_ret_underflow_records_the_whole_word : (ran State.reset 0x0AEE).map (fun t => (t.sp, t.pc, t.diag.map Event.record)) =
    some (0, 0x202, [(3, 0x0AEE, 0)]) := by decide

/-- F13. -/
theorem test_call_pushes_wrapped_address : (ran { State.reset with pc := 0xFFE } 0x2200).map (fun t => (t.stack[0], t.sp, t.pc)) = some (0x000, 1, 0x200) := by decide

/-- F16. -/
theorem test_call_overflow : (ran { State.reset with sp := 16 } 0x2300).map (fun t => (t.sp, t.pc, t.diag.map Event.record)) =
    some (16, 0x202, [(2, 0x2300, 0)]) := by decide

/-- F1. -/
theorem test_jp : (ran State.reset 0x1ABC).map (fun t => t.pc) = some 0xABC := by decide

/-- F6. -/
theorem test_jp_v0_wraps : (ran (State.reset.writeV 0 2) 0xBFFF).map (fun t => t.pc) = some 0x001 := by decide

/-- F7. -/
theorem test_se_imm_taken : (ran (State.reset.writeV 0xA 0x42) 0x3A42).map (fun t => t.pc) = some 0x204 := by decide

/-- F11b. -/
theorem test_se_imm_skip_wraps : (ran { State.reset with pc := 0xFFE } 0x3000).map (fun t => t.pc) = some 0x002 := by decide

/-- F8b. -/
theorem test_sne_imm_taken : (ran (State.reset.writeV 0xA 0x43) 0x4A42).map (fun t => t.pc) = some 0x204 := by decide

/-- F8. -/
theorem test_sne_imm_not_taken : (ran (State.reset.writeV 0xA 0x42) 0x4A42).map (fun t => t.pc) = some 0x202 := by decide

/-- F9. -/
theorem test_se_reg_taken : (ran (with2 0xA 7 0xB 7) 0x5AB0).map (fun t => t.pc) = some 0x204 := by decide

/-- F9b. -/
theorem test_se_reg_not_taken : (ran (with2 0xA 7 0xB 8) 0x5AB0).map (fun t => t.pc) = some 0x202 := by decide

/-- F10b. -/
theorem test_sne_reg_taken : (ran (with2 0xA 7 0xB 8) 0x9AB0).map (fun t => t.pc) = some 0x204 := by decide

/-- F10. -/
theorem test_sne_reg_not_taken : (ran (with2 0xA 7 0xB 7) 0x9AB0).map (fun t => t.pc) = some 0x202 := by decide

/-- F12: high byte 0x60 at 0xFFF, low byte the font's 0xF0 at 0x000. -/
theorem test_ld_imm_fetched_over_the_edge : (nextOf (step ({ State.reset with pc := 0xFFF }.memWrite 0xFFF 0x60))).map (fun t => (t.readV 0, t.pc)) =
    some (0xF0, 0x001) := by decide

/-- A2. -/
theorem test_add_imm_wraps_without_flag : (ran (with2 0xA 0xFF 0xF 0x55) 0x7A01).map (fun t => (t.readV 0xA, t.readV 0xF)) = some (0x00, 0x55) := by decide

/-- A3. -/
theorem test_ld_reg : (ran (with2 0xA 0x01 0xB 0x9C) 0x8AB0).map (fun t => (t.readV 0xA, t.readV 0xB)) = some (0x9C, 0x9C) := by decide

/-- A4. -/
theorem test_or_leaves_vf : (ran ((with2 0xA 0xF0 0xB 0x3C).writeV 0xF 7) 0x8AB1).map (fun t => (t.readV 0xA, t.readV 0xF)) = some (0xFC, 7) := by decide

/-- A5. -/
theorem test_and_leaves_vf : (ran ((with2 0xA 0xF0 0xB 0x3C).writeV 0xF 7) 0x8AB2).map (fun t => (t.readV 0xA, t.readV 0xF)) = some (0x30, 7) := by decide

/-- A6. -/
theorem test_xor_leaves_vf : (ran ((with2 0xA 0xF0 0xB 0x3C).writeV 0xF 7) 0x8AB3).map (fun t => (t.readV 0xA, t.readV 0xF)) = some (0xCC, 7) := by decide

/-- E3. -/
theorem test_add_carry : (ran (with2 0 0xFA 1 0x0A) 0x8014).map (fun t => (t.readV 0, t.readV 0xF)) = some (0x04, 1) := by decide

/-- A7e. -/
theorem test_add_into_vf_keeps_the_flag : (ran (with2 0xF 200 1 100) 0x8F14).map (fun t => t.readV 0xF) = some 0x01 := by decide

/-- E4. -/
theorem test_sub_borrow : (ran (with2 0 5 1 10) 0x8015).map (fun t => (t.readV 0, t.readV 0xF)) = some (0xFB, 0) := by decide

/-- A8f. -/
theorem test_sub_from_old_vf : (ran (with2 0 5 0xF 10) 0x80F5).map (fun t => (t.readV 0, t.readV 0xF)) = some (0xFB, 0) := by decide

/-- E4. -/
theorem test_subn_no_borrow : (ran (with2 0 5 1 10) 0x8017).map (fun t => (t.readV 0, t.readV 0xF)) = some (0x05, 1) := by decide

/-- A9. -/
theorem test_subn_borrow : (ran (with2 0 10 1 5) 0x8017).map (fun t => (t.readV 0, t.readV 0xF)) = some (0xFB, 0) := by decide

/-- A10. -/
theorem test_shr_from_vy : (ran (with2 0 0x05 1 0x82) 0x8016).map (fun t => (t.readV 0, t.readV 1, t.readV 0xF)) = some (0x41, 0x82, 0) := by decide

/-- A10b. -/
theorem test_shr_from_vx : (ran (quirked (with2 0 0x05 1 0x82) true false false) 0x8016).map (fun t => (t.readV 0, t.readV 1, t.readV 0xF)) =
    some (0x02, 0x82, 1) := by decide

/-- A11. -/
theorem test_shl_from_vy : (ran (with2 0 0x05 1 0x82) 0x801E).map (fun t => (t.readV 0, t.readV 0xF)) = some (0x04, 1) := by decide

/-- A12d. -/
theorem test_shl_of_vf_from_vx : (ran (quirked (with2 0xF 0x81 1 0x42) true false false) 0x8F1E).map (fun t => t.readV 0xF) = some 0x01 := by decide

/-- A14, what does not depend on the byte drawn. -/
theorem test_rnd_draws_one_byte : (ran State.reset 0xCA0F).map (fun t => (t.pc, t.draws)) = some (0x202, 1) := by decide

/-- G13. -/
theorem test_cls_leaves_vf : (ran (lit (lit (State.reset.writeV 0xF 1) 0 0) 31 63) 0x00E0).map (fun t => (t.fb, t.readV 0xF)) =
    some (State.reset.fb, 1) := by decide

/-- G6b. -/
theorem test_drw_wraps_and_collides : (ran (lit (quirked (placed (State.reset.writeV 0 60) 0x300 [0xFF]) false true false) 0 0) 0xD011).map
    (fun t => (t.fb[0], t.readV 0xF)) = some (0xF00000000000000E, 1) := by decide

/-- G11. -/
theorem test_drw_latches_vf_as_coordinate : (ran (placed (with2 0xF 5 0 2) 0x300 [0x80]) 0xDF01).map (fun t => (t.fb[2], t.readV 0xF)) = some (0x20, 0) := by decide

/-- K3. -/
theorem test_skp_tests_the_whole_byte : (ran ((State.reset.writeV 3 0x15).setKey 5 true) 0xE39E).map (fun t => (t.pc, t.diag.map Event.record)) =
    some (0x202, [(5, 0xE39E, 21)]) := by decide

/-- K1. -/
theorem test_skp_taken : (ran ((State.reset.writeV 3 5).setKey 5 true) 0xE39E).map (fun t => t.pc) = some 0x204 := by decide

/-- K2b. -/
theorem test_sknp_taken : (ran ((State.reset.writeV 3 5).setKey 4 true) 0xE3A1).map (fun t => t.pc) = some 0x204 := by decide

/-- K4. -/
theorem test_sknp_invalid_index_never_skips : (ran (State.reset.writeV 3 0xFF) 0xE3A1).map (fun t => (t.pc, t.diag.map Event.record)) =
    some (0x202, [(5, 0xE3A1, 255)]) := by decide

/-- K5d. -/
theorem test_ld_k_rewinds_to_zero : (ran { State.reset.writeV 3 9 with pc := 0 } 0xF30A).map (fun t => (t.readV 3, t.pc)) = some (9, 0x000) := by decide

/-- K5b. -/
theorem test_ld_k_takes_the_lowest_key : (ran (((State.reset.writeV 3 9).setKey 0xC true).setKey 3 true) 0xF30A).map (fun t => (t.readV 3, t.pc)) =
    some (3, 0x202) := by decide

/-- K6. -/
theorem test_ld_vx_dt : (ran { State.reset with dt := 0x2A } 0xF307).map (fun t => (t.readV 3, t.dt)) = some (0x2A, 0x2A) := by decide

/-- K7. -/
theorem test_ld_dt_vx : (ran (State.reset.writeV 3 0x2A) 0xF315).map (fun t => t.dt) = some 0x2A := by decide

/-- K8. -/
theorem test_ld_st_vx_turns_sound_on : (ran (State.reset.writeV 3 0x2A) 0xF318).map (fun t => (t.st, t.soundOn)) = some (0x2A, true) := by decide

/-- M1b. -/
theorem test_ld_i : (ran State.reset 0xAFFF).map (fun t => t.i) = some 0xFFF := by decide

/-- M2. -/
theorem test_add_i_wraps_without_flag : (ran { with2 3 3 0xF 7 with i := 0xFFE } 0xF31E).map (fun t => (t.i, t.readV 0xF)) = some (0x001, 7) := by decide

/-- E9. -/
theorem test_ld_f : (ran (State.reset.writeV 3 0x0A) 0xF329).map (fun t => t.i) = some 0x032 := by decide

/-- E9. -/
theorem test_ld_f_invalid_digit : (ran { State.reset.writeV 3 0x10 with i := 0x123 } 0xF329).map (fun t => (t.i, t.diag.map Event.record)) =
    some (0x123, [(4, 0xF329, 16)]) := by decide

/-- M4g. -/
theorem test_ld_b_wraps_into_the_font : (ran { State.reset.writeV 3 234 with i := 0xFFE } 0xF333).map
    (fun t => (t.memRead 0xFFE, t.memRead 0xFFF, t.memRead 0x000, t.i)) = some (2, 3, 4, 0xFFE) := by decide

/-- E8. -/
theorem test_store_regs_with_qc_clear : (ran { ((with2 0 1 1 2).writeV 3 4).writeV 4 5 with i := 0x300 } 0xF355).map
    (fun t => (t.memRead 0x300, t.memRead 0x301, t.memRead 0x303, t.memRead 0x304, t.i)) = some (1, 2, 4, 0, 0x304) := by decide

/-- E8. -/
theorem test_store_regs_with_qc_set : (ran { quirked (with2 0 1 1 2) false false true with i := 0x300 } 0xF355).map (fun t => (t.memRead 0x301, t.i)) =
    some (2, 0x300) := by decide

/-- M7. -/
theorem test_load_regs_from_the_font : (ran State.reset 0xFF65).map (fun t => (t.v.toList, t.i)) =
    some ([0xF0, 0x90, 0x90, 0x90, 0xF0, 0x20, 0x60, 0x20, 0x20, 0x70, 0xF0, 0x10, 0xF0, 0x80, 0xF0, 0xF0], 0x010) := by decide

/-- E8. -/
theorem test_load_regs_stops_at_x : (ran (placed (State.reset.writeV 4 0x44) 0x300 [9, 8, 7, 6, 5]) 0xF365).map
    (fun t => (t.readV 0, t.readV 3, t.readV 4, t.i)) = some (9, 6, 0x44, 0x304) := by decide

/-- S8, its first slot. -/
theorem test_unrecognised_word_costs_one_slot : (ran State.reset 0xFFFF).map (fun t => (t.pc, t.diag.map Event.record)) = some (0x202, [(1, 0xFFFF, 0)]) := by decide

/-! ### The scheduler and the host's operations -/

/-- E6 (a). -/
theorem test_one_second_lowers_a_timer_by_sixty : (nextOf (tick .reference 0 60000 { State.reset with dt := 60 })).map (fun t => (t.dt, t.acc)) = some (0, 0) := by decide

/-- S4, without an instruction. -/
theorem test_timers_floor_at_zero_and_keep_the_rest : (nextOf (tick .reference 0 10500 { State.reset with dt := 3, st := 1 })).map (fun t => (t.dt, t.st, t.acc)) =
    some (0, 0, 500) := by decide

/-- S11. -/
theorem test_paused_runs_nothing : (nextOf (tick .reference 5 2000 { State.reset with dt := 4, run := .paused })).map (fun t => (t.dt, t.pc)) = some (2, 0x200) := by decide

/-- S7c. -/
theorem test_paused_step_runs_one_slot : (nextOf (tick .reference 10 0 { State.reset.withFetchWord 16 0x7001 with run := .pausedStep })).map
    (fun t => (t.readV 0, t.pc, t.run)) = some (1, 0x202, .paused) := by decide

/-- S7b. -/
theorem test_paused_step_waits_for_a_slot : (nextOf (tick .reference 0 0 { State.reset with run := .pausedStep })).map (fun t => t.run) = some .pausedStep := by decide

/-- Parameters other than the reference ones (00_scope R8): one unit a quantum, QC = 1, every font byte 0x18. -/
def otherParams : Params := { refHz := 60, quirkReset := ⟨false, false, true⟩, fontRom := .replicate 80 0x18 }

/-- 00_scope R8: QUANTUM, QUIRK_RESET and FONT_ROM are those of the parameters. -/
theorem test_parameters_act : (nextOf (session otherParams [.reset, .tick 0 5] { State.reset with dt := 9 })).map
    (fun t => (t.dt, t.quirks.qc, t.memRead 0x000, t.memRead 0x04F, t.memRead 0x050)) = some (0, true, 0x18, 0x18, 0) ∧
    (nextOf (tick otherParams 0 5 { State.reset with dt := 9 })).map (fun t => t.dt) = some 4 := by decide

/-- S10c. -/
theorem test_empty_image_runs_sys : (nextOf (session .reference [.reset, .loadProgram [], .tick 2 0] State.reset)).map (fun t => (t.pc, t.diag.map Event.record)) =
    some (0x204, [(6, 0x0000, 0), (6, 0x0000, 0)]) := by decide

/-- 70_reset R253, R265 duty 2. -/
theorem test_host_owes_reset_first : dutiful .off [.tick 1 0] = false ∧ dutiful .off [.reset, .tick 1 0, .loadProgram []] = false ∧
    dutiful .off [.reset, .loadProgram [], .setKey 1 true, .tick 1 0, .reset, .tick 0 5] = true := by decide

/-- S10: one byte more than fits is refused. -/
theorem test_load_program_refuses_oversize :
    loadProgram (List.replicate 3585 0) State.reset = .refused .loadTooLarge := by
  rw [loadProgram, if_neg (by rw [List.length_replicate]; decide)]

/-! ### Witnesses: states and operands that meet the hypotheses of the obligations, clause by clause -/

theorem reset_inv : State.reset.Inv .reference := ⟨by decide, by decide, by decide, by decide, fun a h => by
  rw [show a = 0 from by simpa [State.reset] using h]; decide, by decide⟩

theorem witness_DecodeOfEncodeIsIdentity : (Instr.sys 0x2FF).wellFormed = true := by decide

theorem witness_EncodeOfDecodeIsIdentity : decode 0x0AEE = .recognised (.ret 0xA) := by decide

theorem witness_DecodeSelectsTheRowByMaskAndMatch : (1, 0xF000, 0x0000) ∈ opcodeRows ∧ (35, 0xF0FF, 0xF065) ∈ opcodeRows := by
  decide

theorem witness_UnrecognisedWordsAreThoseListed : unrecognisedWord 0x5001 ∧ unrecognisedWord 0x8008 ∧ unrecognisedWord 0x800F ∧
    unrecognisedWord 0x900F ∧ unrecognisedWord 0xE09D ∧ unrecognisedWord 0xFF66 ∧ ¬ unrecognisedWord 0x800E ∧
    ¬ unrecognisedWord 0x0000 := by
  simp [unrecognisedWord]

/-- Both clauses: a recognised word, and an unrecognised one fetched over the edge of memory. -/
theorem witness_StepRunsTheFetchedInstruction :
    decode (Memory.read State.reset.mem (0x200 % 4096) ++ Memory.read State.reset.mem ((0x200 + 1) % 4096)) =
      .recognised (.sys 0) ∧
    decode (Memory.read [(4095, 0x5F)] (0xFFF % 4096) ++ Memory.read [(4095, 0x5F)] ((0xFFF + 1) % 4096)) =
      .recognised (.seReg 0xF 0xF) ∧
    decode (Memory.read [(0, 0x01), (4095, 0x5F)] (0xFFF % 4096) ++ Memory.read [(0, 0x01), (4095, 0x5F)] ((0xFFF + 1) % 4096)) =
      .unrecognised 0x5F01 := by
  decide

theorem witness_UnrecognisedWordIsReportedNoOp : unrecognisedWord (State.reset.withFetchWord 16 0xFFFF).fetchWord := by
  rw [show (State.reset.withFetchWord 16 0xFFFF).fetchWord = 0xFFFF by decide]
  simp [unrecognisedWord]

theorem witness_EveryStepKeepsInvariant : ∃ s t : State, s.Inv .reference ∧ step s = .next t :=
  ⟨State.reset, (exists_next (by decide)).choose, reset_inv, (exists_next (by decide)).choose_spec⟩

theorem witness_EveryHostOperationKeepsInvariant :
    ∃ s t : State, s.Inv .reference ∧ applyHostOp .reference (.loadProgram [0x12, 0x00]) s = .next t :=
  ⟨State.reset, (exists_next (by decide)).choose, reset_inv, (exists_next (by decide)).choose_spec⟩

theorem witness_NoSessionHalts : ∃ s : State, s.Inv .reference ∧
    ∀ image, HostOp.loadProgram image ∈ [HostOp.reset, .loadProgram [0x12, 0x00], .tick 3 1000] → image.length ≤ 3584 :=
  ⟨State.reset, reset_inv, fun image h => by simp at h; simp [h]⟩

/-- A step that raises an event and one that does not; the two of every statement about a step that answers a next state. -/
theorem witness_RaisingInstructionChangesOnlyPcAndDiag :
    (nextOf (step State.reset)).map (fun t => t.diag == State.reset.diag) = some false ∧
    (ran State.reset 0x6AFF).map (fun t => t.diag == State.reset.diag) = some true := by
  decide

theorem witness_ErrorsAreExactlyTheRecoverableOnes :
    State.reset.noError = true ∧ (ran State.reset 0x00EE).map (fun t => t.noError) = some false ∧
    (ran State.reset 0x0123).map (fun t => t.noError) = some true := by
  decide

theorem witness_NoInstructionWritesHostState : ∃ t, step State.reset = .next t := exists_next (by decide)

/-- One instruction for each clause. -/
theorem witness_OnlyTheListedInstructionsWriteEachPiece :
    (nextOf (exec (.ldB 0) { State.reset.writeV 0 1 with i := 0x300 })).map (fun t => t.mem == []) = some false ∧
    (nextOf (exec (.ldImm 2 9) State.reset)).map (fun t => t.readV 2) = some 9 ∧
    (nextOf (exec (.ldI 0x300) State.reset)).map (fun t => t.i) = some 0x300 ∧
    (nextOf (exec (.call 0x300) State.reset)).map (fun t => t.sp) = some 1 ∧
    (nextOf (exec (.ldDtVx 0) (State.reset.writeV 0 1))).map (fun t => t.dt) = some 1 ∧
    (nextOf (exec (.ldStVx 0) (State.reset.writeV 0 1))).map (fun t => t.st) = some 1 ∧
    (nextOf (exec (.cls 0) (lit State.reset 0 0))).map (fun t => t.fb == (lit State.reset 0 0).fb) = some false ∧
    (nextOf (exec (.sys 0) State.reset)).map (fun t => t.diag.length) = some 1 ∧
    (nextOf (exec (.rnd 0 0) State.reset)).map (fun t => t.draws) = some 1 := by
  decide

theorem witness_OnlyTheListedInstructionsWriteVf :
    (nextOf (exec (.sub 0 1) State.reset)).map (fun t => t.readV 15) = some 1 ∧
    (nextOf (exec (.ldImm 15 9) State.reset)).map (fun t => t.readV 15) = some 9 := by
  decide

theorem witness_EveryInstructionLeavesPcAsTabled : ∃ s t : State, s.Inv .reference ∧ step s = .next t := witness_EveryStepKeepsInvariant

theorem witness_StepDoesNotDependOnRunAccDiag : ∃ t, step State.reset = .next t := exists_next (by decide)

/-- A step without RND, and one with it. -/
theorem witness_OnlyRandomReadsTheInputPosition : (∃ t, step State.reset = .next t) ∧
    decode State.reset.fetchWord = .recognised (.sys 0) ∧
    (∃ t, step (State.reset.withFetchWord 16 0xCA0F) = .next t) ∧
    decode (State.reset.withFetchWord 16 0xCA0F).fetchWord = .recognised (.rnd 0xA 0x0F) :=
  ⟨exists_next (by decide), by decide, exists_next (by decide), by decide⟩

theorem witness_StackEntriesAboveSpAreNeverRead :
    SameBelowSp State.reset { State.reset with stack := State.reset.stack.set 15 7 } ∧ ∃ t, step State.reset = .next t :=
  ⟨⟨rfl, fun k _ h => absurd h (by simp [State.reset])⟩, exists_next (by decide)⟩

theorem witness_OnlyFiveInstructionsReadQuirks :
    (Instr.ldF 0).rowNumber ∉ [17, 19, 24, 34, 35] ∧ ∃ t, exec (.ldF 0) State.reset = .next t :=
  ⟨by decide, exists_next (by decide)⟩

theorem witness_MemWriteSetsOneByte : Memory.wf State.reset.mem := by decide

theorem witness_SysOnlyReportsItself : (0x2FF#12).toNat % 256 ≠ 0xE0 ∧ (0x2FF#12).toNat % 256 ≠ 0xEE := by decide

/-- Empty, one entry, full. -/
theorem witness_RetPopsOrReportsUnderflow : State.reset.sp.toNat = 0 ∧ ({ State.reset with sp := 1 } : State).sp.toNat = 0 + 1 ∧
    ({ State.reset with sp := 16 } : State).sp.toNat = 15 + 1 := by
  decide

/-- Full, empty, one entry free. -/
theorem witness_CallPushesOrReportsOverflow : ({ State.reset with sp := 16 } : State).sp.toNat = 16 ∧ State.reset.sp.toNat = 0 ∧
    ({ State.reset with sp := 15 } : State).sp.toNat = 15 := by
  decide

theorem witness_CallAndRetFaultAboveSixteen : 16 < ({ State.reset with sp := 17 } : State).sp.toNat := by decide

theorem witness_RetReturnsAfterTheMatchingCall : ∃ s t u : State, s.sp.toNat < 16 ∧ s.pc.toNat < 4096 ∧
    exec (.call 0x300) s = .next t ∧ u.sp = t.sp ∧ u.stack = t.stack :=
  ⟨State.reset, (exists_next (by decide)).choose, (exists_next (by decide)).choose, by decide, by decide,
    (exists_next (by decide)).choose_spec, rfl, rfl⟩

theorem witness_SelfJumpChangesNothing : (State.reset.withFetchWord 16 0x1200).pc.toNat = (0x200#12).toNat ∧
    (State.reset.withFetchWord 16 0x1200).fetchWord = 0x1#4 ++ 0x200#12 := by
  decide

/-- A self-jump, and a jump elsewhere, which is none (70_reset R273). -/
theorem witness_FinishedProgramChangesOnlyTimers : (State.reset.withFetchWord 16 0x1200).finished = true ∧
    (State.reset.withFetchWord 16 0x1202).finished = false := by
  decide

theorem witness_ResetStateMeetsInvariant : Params.reference.valid ∧
    ({ Params.reference with refHz := 60 } : Params).valid ∧ ¬ ({ Params.reference with refHz := 0 } : Params).valid := by
  decide

theorem witness_ShiftsMoveTheSelectedSource :
    (2 : Byte) = (if (with2 0 1 1 2).quirks.qa = true then (with2 0 1 1 2).readV 0 else (with2 0 1 1 2).readV 1) ∧
    (1 : Byte) = (if (quirked (with2 0 1 1 2) true false false).quirks.qa = true then
      (quirked (with2 0 1 1 2) true false false).readV 0 else (quirked (with2 0 1 1 2) true false false).readV 1) := by
  decide

/-- A pixel the sprite covers and one it does not, at the right edge: clipped, then wrapped. -/
theorem witness_DrawTogglesCoveredPixelsAndDetectsCollision :
    spriteCovers false 60 0 (fun _ => 0xFF) 1 0 63 ∧ ¬ spriteCovers false 60 0 (fun _ => 0xFF) 1 0 0 ∧
    spriteCovers true 60 0 (fun _ => 0xFF) 1 0 0 ∧
    (∃ py < 32, ∃ px < 64, spriteCovers true 60 0 (fun _ => 0xFF) 1 py px ∧ (lit State.reset 0 0).fb.pixel py px = true) ∧
    ¬ ∃ py < 32, ∃ px < 64, spriteCovers true 60 0 (fun _ => 0xFF) 0 py px ∧ State.reset.fb.pixel py px = true := by
  refine ⟨⟨0, by decide, 3, by decide, by decide, by decide⟩, ?_, ⟨0, by decide, 4, by decide, by decide, by decide⟩,
    ⟨0, by decide, 0, by decide, ⟨0, by decide, 4, by decide, by decide, by decide⟩, by decide⟩, ?_⟩
  · rintro ⟨r, -, c, hc, -, h⟩
    simp at h
  · rintro ⟨py, -, px, -, ⟨r, hr, -⟩, -⟩
    exact absurd hr (by omega)

theorem witness_DrawingTwiceRestoresTheFramebuffer : (0 : Nibble) ≠ 15 ∧ (14 : Nibble) ≠ 15 := by decide

/-- The last key and the first number that is no key. -/
theorem witness_KeySkipsTestTheNamedKey : ((State.reset.writeV 3 15).readV 3).toNat = 15 ∧
    15 < ((State.reset.writeV 3 16).readV 3).toNat := by
  decide

/-- No key, the first key, the last key. -/
theorem witness_KeyWaitRewindsOrTakesTheLeastKey : (∀ k (hk : k < 16), State.reset.keys[k] = false) ∧
    (State.reset.setKey 0 true).keys[0] = true ∧ (State.reset.setKey 15 true).keys[15] = true ∧
    ∀ j (hj : j < 15), (State.reset.setKey 15 true).keys[j] = false := by
  decide

/-- The last digit and the first number that is none. -/
theorem witness_FontAddressOrInvalidDigit : ((State.reset.writeV 3 15).readV 3).toNat ≤ 15 ∧
    15 < ((State.reset.writeV 3 16).readV 3).toNat := by
  decide

theorem witness_BcdStoresThreeDigits : Memory.wf (State.reset.memWrite 0 4).mem := by decide

theorem witness_RegisterDumpStoresLowRegisters : Memory.wf State.reset.mem ∧ State.reset.quirks.qc = false ∧
    (quirked State.reset false false true).quirks.qc = true := by
  decide

theorem witness_RegisterLoadReadsLowRegisters : State.reset.quirks.qc = false ∧
    (quirked State.reset false false true).quirks.qc = true := by
  decide

theorem witness_LoadAfterDumpRestoresRegisters : Memory.wf (quirked State.reset false false true).mem ∧
    (quirked State.reset false false true).quirks.qc = true := by
  decide

theorem witness_StoredCodeIsFetchedNext : Memory.wf ({ State.reset with i := 0x200 } : State).mem ∧ 1 ≤ (1 : Nibble).toNat ∧
    ({ State.reset with i := 0x200 } : State).i = ({ State.reset with i := 0x200 } : State).pc := by
  decide

/-- Running with slots that run; a pending step with a slot, and with none; paused. -/
theorem witness_TickRunsSlotsThenTimers :
    (State.reset.run = .running ∧ ∃ u : State, Host.Core.run Sys2Proof.core 2 State.reset = .next u) ∧
    (({ State.reset with run := .pausedStep } : State).run = .pausedStep ∧
      ∃ u, step { State.reset with run := .pausedStep } = .next u) ∧
    ({ State.reset with run := .paused } : State).run = .paused :=
  ⟨⟨rfl, by rw [show Host.Core.run Sys2Proof.core 2 State.reset = slots 2 State.reset from rfl]; exact exists_next (by decide)⟩,
    ⟨rfl, exists_next (by decide)⟩, rfl⟩

theorem witness_TimerLawOverAnySequenceOfTicks : State.reset.acc < Params.reference.quantum ∧
    ({ State.reset with acc := 999 } : State).acc < Params.reference.quantum := by
  decide

theorem witness_PauseAndStepRequestTransitions : State.reset.run = .running ∧ State.reset.pauseToggle.run = .paused ∧
    State.reset.pauseToggle.stepRequest.run = .pausedStep := by
  decide

theorem witness_LoadProgramCopiesOrRefuses : Memory.wf State.reset.mem ∧ (List.replicate 3584 (0 : Byte)).length ≤ 3584 ∧
    3584 < (List.replicate 3585 (0 : Byte)).length :=
  ⟨by decide, by rw [List.length_replicate], by rw [List.length_replicate]; decide⟩

end Sys2Proof.Tests
end

section
/-! PROOFS. Reset (70_reset R250): every piece of state at the value 10_state R43 gives it. -/

namespace Sys2Proof.Machine

/-! ### What lies where Reset puts it -/

/-- After the font the reference contents are zero. -/
theorem unlistedByte_of_font_le {a : Nat} (ha : 80 ≤ a) : unlistedByte a = 0 := by
  have hlen : referenceFontRom.length ≤ a := ha
  simp [unlistedByte, List.getElem?_eq_none hlen]

/-- The host's Reset is the reference reset but for the switches, the font and the draw counter. -/
theorem State.hostReset_eq (s : State) (p : Params) :
    s.hostReset p =
      { State.reset with quirks := p.quirkReset, mem := (State.resetWith p).mem, draws := s.draws } := by
  rw [State.hostReset, State.resetWith_eq]

theorem State.readV_reset (r : Nibble) : State.reset.readV r = 0 := Vector.getElem_replicate _

theorem State.stack_reset {k : Nat} (hk : k < 16) : State.reset.stack[k] = 0 := Vector.getElem_replicate _

theorem State.keys_reset {k : Nat} (hk : k < 16) : State.reset.keys[k] = false := Vector.getElem_replicate _

theorem State.pixel_reset {py : Nat} (hy : py < 32) (px : Nat) : State.reset.fb.pixel py px = false := by
  simp [State.reset, Framebuffer.pixel, hy]

/-- The reference font is the one unlisted addresses hold, so that Reset lists no byte of it. -/
theorem State.resetWith_reference : State.resetWith .reference = State.reset := by decide

/-! ### The obligation -/

/-- Settles O55: Reset gives the reference reset state with the switches, the font and the old draw counter put in, and each
piece of that state is read off by its own lemma. The last three parts are values of the reference parameters. -/
theorem resetPutsEveryPieceAtItsResetValue : Obligations.ResetPutsEveryPieceAtItsResetValue := by
  refine ⟨fun p s => ⟨s.hostReset p, rfl, ?_⟩, State.resetWith_reference, rfl, rfl, by decide⟩
  rw [State.hostReset_eq]
  exact ⟨rfl, rfl, rfl, rfl, rfl, rfl, rfl, rfl, rfl, rfl, State.readV_reset,
    fun _ hk => ⟨State.stack_reset hk, State.keys_reset hk⟩,
    fun _ hy px _ => State.pixel_reset hy px,
    fun _ ha => State.read_resetWith_font p ha,
    fun _ ha => (State.read_resetWith_outside p ha).trans (unlistedByte_of_font_le ha)⟩

end Sys2Proof.Machine
end

section
/-! PROOFS. What an instruction can do to the state, said once over the shapes its writes take (10_state R42), and which pieces
each shape leaves as they were. The statements on single pieces of state, on the invariant and on PC rest on it. -/

namespace Sys2Proof.Machine

/-! ### CALL and RET, case by case of SP (40_flow R121, R123) -/

section
variable {s : State}

theorem State.toNat_push_sp (a : Word) (h : s.sp.toNat < 16) : (s.push a h).sp.toNat = s.sp.toNat + 1 := by
  rw [State.push_sp, BitVec.toNat_add_of_lt (by simp; omega)]
  rfl

theorem State.toNat_pop_sp (h : s.sp.toNat - 1 < 16) (hpos : 0 < s.sp.toNat) :
    (s.pop h).sp.toNat = s.sp.toNat - 1 :=
  BitVec.toNat_sub_of_le hpos

theorem execRet_empty (x : Nibble) (h : s.sp.toNat = 0) :
    execRet x s = .next (s.raise .stackUnderflow (encode (.ret x)) 0) := if_pos (BitVec.eq_of_toNat_eq h)

theorem execRet_pop (x : Nibble) (hpos : 0 < s.sp.toNat) (h16 : s.sp.toNat - 1 < 16) :
    execRet x s = .next (s.pop h16) := by
  have h0 : s.sp ≠ 0 := fun h => by simp [h] at hpos
  rw [execRet, if_neg h0, dif_pos h16]

theorem execRet_above (x : Nibble) (h : 16 < s.sp.toNat) : execRet x s = .fault .stackPointerOutOfRange := by
  have h0 : s.sp ≠ 0 := fun h0 => by simp [h0] at h
  rw [execRet, if_neg h0, dif_neg (by omega)]

theorem execCall_full (nnn : Addr) (h : s.sp.toNat = 16) :
    execCall nnn s = .next (s.raise .stackOverflow (encode (.call nnn)) 0) := if_pos h

theorem execCall_push (nnn : Addr) (h16 : s.sp.toNat < 16) :
    execCall nnn s = .next ((s.push s.pc h16).setPc nnn.toNat) := by
  rw [execCall, if_neg (Nat.ne_of_lt h16), dif_pos h16]

theorem execCall_above (nnn : Addr) (h : 16 < s.sp.toNat) : execCall nnn s = .fault .stackPointerOutOfRange := by
  rw [execCall, if_neg (Nat.ne_of_gt h), dif_neg (by omega)]

/-- RET finds the stack empty, or an entry to pop, or an SP the invariant rules out. -/
theorem State.sp_cases_ret (s : State) :
    s.sp.toNat = 0 ∨ (0 < s.sp.toNat ∧ s.sp.toNat - 1 < 16) ∨ 16 < s.sp.toNat := by omega

theorem exec_ret_cases {x : Nibble} {t : State} (h : exec (.ret x) s = .next t) :
    (s.sp.toNat = 0 ∧ t = s.raise .stackUnderflow (encode (.ret x)) 0) ∨
      ∃ h16 : s.sp.toNat - 1 < 16, 0 < s.sp.toNat ∧ t = s.pop h16 := by
  have h : execRet x s = .next t := h
  rcases s.sp_cases_ret with h0 | ⟨hpos, h16⟩ | habove
  · rw [execRet_empty x h0] at h
    exact .inl ⟨h0, (Host.Outcome.next.inj h).symm⟩
  · rw [execRet_pop x hpos h16] at h
    exact .inr ⟨h16, hpos, (Host.Outcome.next.inj h).symm⟩
  · rw [execRet_above x habove] at h
    cases h

theorem exec_call_cases {nnn : Addr} {t : State} (h : exec (.call nnn) s = .next t) :
    (s.sp.toNat = 16 ∧ t = s.raise .stackOverflow (encode (.call nnn)) 0) ∨
      ∃ h16 : s.sp.toNat < 16, t = (s.push s.pc h16).setPc nnn.toNat := by
  have h : execCall nnn s = .next t := h
  rcases Nat.lt_trichotomy s.sp.toNat 16 with h16 | hfull | habove
  · rw [execCall_push nnn h16] at h
    exact .inr ⟨h16, (Host.Outcome.next.inj h).symm⟩
  · rw [execCall_full nnn hfull] at h
    exact .inl ⟨hfull, (Host.Outcome.next.inj h).symm⟩
  · rw [execCall_above nnn habove] at h
    cases h

end

/-- Settles O26: the two cases of SP above 16. -/
theorem callAndRetFaultAboveSixteen : Obligations.CallAndRetFaultAboveSixteen :=
  fun nnn x _ h => ⟨execCall_above nnn h, execRet_above x h⟩

/-! ### The shapes of an instruction's effect -/

/-- `Effect i s t`: the instruction `i` takes `s` to `t` by one of the ways the hardware writes its state. Each shape names the
rows of R98 it belongs to, the pieces written, and what is needed of a value written for the invariant. -/
inductive Effect (i : Instr) (s : State) : State → Prop
  /-- One more diagnostic record (60_exceptions R210). -/
  | raised (kind : EventKind) (w : Word) (b : Byte) (row : i.rowNumber ∈ [1, 3, 5, 25, 26, 32]) :
      Effect i s (s.raise kind w b)
  /-- PC kept, or moved to an address: jumps, skips and the key wait. -/
  | movedPc (a : Word) (ha : a = s.pc ∨ a.toNat < 4096) (row : i.rowNumber ∈ [4, 6, 7, 8, 20, 22, 25, 26, 28]) :
      Effect i s { s with pc := a }
  | called (h : s.sp.toNat < 16) (n : Nat) (row : i.rowNumber = 5) : Effect i s ((s.push s.pc h).setPc n)
  | returned (h : s.sp.toNat - 1 < 16) (hpos : 0 < s.sp.toNat) (row : i.rowNumber = 3) : Effect i s (s.pop h)
  /-- The destination is V[X] alone. -/
  | wroteReg (x : Nibble) (b : Byte) (hx : (splitFields (encode i)).x = x)
      (row : i.rowNumber ∈ [9, 10, 11, 12, 13, 14, 27, 28]) : Effect i s (s.writeV x b)
  | wroteResultFlag (x : Nibble) (b : Byte) (f : Bool) (row : i.rowNumber ∈ [15, 16, 17, 18, 19]) :
      Effect i s (s.writeResultFlag x b f)
  /-- V[X] gets the byte drawn from the RND input. -/
  | drewByte (x : Nibble) (b : Byte) (hx : (splitFields (encode i)).x = x) (row : i.rowNumber = 23) :
      Effect i s (s.takeDraw.writeV x b)
  | drewSprite (fb : Framebuffer) (f : Bool) (row : i.rowNumber = 24) : Effect i s ((s.setFb fb).setFlag f)
  | cleared (fb : Framebuffer) (row : i.rowNumber = 2) : Effect i s (s.setFb fb)
  | movedI (n : Nat) (row : i.rowNumber ∈ [21, 31, 32]) : Effect i s (s.setI n)
  | setDelay (b : Byte) (row : i.rowNumber = 29) : Effect i s (s.setDt b)
  | setSound (b : Byte) (row : i.rowNumber = 30) : Effect i s (s.setSt b)
  | stored (m : Memory) (hm : Memory.wf s.mem → Memory.wf m) (row : i.rowNumber = 33) : Effect i s { s with mem := m }
  /-- The bulk store: memory, and I under Quirk C. -/
  | dumped (m : Memory) (j : Word) (hm : Memory.wf s.mem → Memory.wf m) (hj : j = s.i ∨ j.toNat < 4096)
      (row : i.rowNumber = 34) : Effect i s { s with mem := m, i := j }
  /-- The bulk load: V[0..X], and I under Quirk C. -/
  | loaded (x : Nibble) (j : Word) (hx : (splitFields (encode i)).x = x) (hj : j = s.i ∨ j.toNat < 4096)
      (row : i.rowNumber = 35) : Effect i s { s with v := s.loadedRegs x, i := j }

/-- The state an instruction answers is the one its meaning gives. -/
theorem Effect.of_next {i : Instr} {s t u : State} (h : (Host.Outcome.next u : Result) = .next t) (e : Effect i s u) :
    Effect i s t := Host.Outcome.next.inj h ▸ e

theorem Effect.setPc {i : Instr} (s : State) (n : Nat) (row : i.rowNumber ∈ [4, 6, 7, 8, 20, 22, 25, 26, 28]) :
    Effect i s (s.setPc n) := .movedPc _ (.inr (State.setPc_lt s n)) row

theorem Effect.skipIf {i : Instr} (s : State) (c : Bool) (row : i.rowNumber ∈ [4, 6, 7, 8, 20, 22, 25, 26, 28]) :
    Effect i s (s.skipIf c) := by
  cases c with
  | true => exact .setPc s _ row
  | false => exact .movedPc s.pc (.inl rfl) row

/-- I after a bulk transfer is kept, or is an address. -/
theorem State.bulkIndex_i_cases (s : State) (x : Nibble) : (s.bulkIndex x).i = s.i ∨ (s.bulkIndex x).i.toNat < 4096 := by
  unfold State.bulkIndex
  split
  · exact .inl rfl
  · exact .inr (State.setI_lt s _)

theorem Effect.storeBytes {i : Instr} (s : State) (bs : List Byte) (row : i.rowNumber = 33) :
    Effect i s (s.storeBytes s.i 0 bs) := by
  rw [State.storeBytes_eq]
  exact .stored _ (State.wf_storeBytes _ _ _) row

theorem Effect.storeRegs (x : Nibble) (s : State) :
    Effect (.storeRegs x) s ((s.storeBytes s.i 0 (s.lowRegs x)).bulkIndex x) := by
  rw [State.bulkIndex_eq, State.storeBytes_eq]
  exact .dumped _ _ (State.wf_storeBytes _ _ _) (State.bulkIndex_i_cases _ x) rfl

theorem Effect.loadRegs (x : Nibble) (s : State) :
    Effect (.loadRegs x) s ({ s with v := s.loadedRegs x }.bulkIndex x) := by
  rw [State.bulkIndex_eq]
  exact .loaded x _ (splitFields_xnn 0xF#4 x 0x65#8).2.1 (State.bulkIndex_i_cases _ x) rfl

/-- The instructions that report and do nothing else for a register above 15. -/
theorem Effect.of_validIndex {i : Instr} {s t u : State} {b : Byte} {kind : EventKind}
    (h : (if validIndex b then .next u else .next (s.raise kind (encode i) b) : Result) = .next t)
    (row : i.rowNumber ∈ [1, 3, 5, 25, 26, 32]) (e : Effect i s u) : Effect i s t := by
  split at h
  · exact .of_next h e
  · exact .of_next h (.raised _ _ _ row)

theorem Effect.ret {x : Nibble} {s t : State} (h : exec (.ret x) s = .next t) : Effect (.ret x) s t := by
  obtain ⟨-, rfl⟩ | ⟨h16, hpos, rfl⟩ := exec_ret_cases h
  · exact .raised _ _ _ (by simp [Instr.rowNumber])
  · exact .returned h16 hpos rfl

theorem Effect.call {nnn : Addr} {s t : State} (h : exec (.call nnn) s = .next t) : Effect (.call nnn) s t := by
  obtain ⟨-, rfl⟩ | ⟨h16, rfl⟩ := exec_call_cases h
  · exact .raised _ _ _ (by simp [Instr.rowNumber])
  · exact .called h16 _ rfl

theorem Effect.ldVxK {x : Nibble} {s t : State} (h : exec (.ldVxK x) s = .next t) : Effect (.ldVxK x) s t := by
  simp only [exec, execLdVxK] at h
  split at h
  · exact .of_next h (.setPc s _ (by simp [Instr.rowNumber]))
  · exact .of_next h (.wroteReg x _ (splitFields_xnn 0xF#4 x 0x0A#8).2.1 (by simp [Instr.rowNumber]))

/-- Every instruction that answers a next state has one of the shapes. -/
theorem exec_effect {i : Instr} {s t : State} (h : exec i s = .next t) : Effect i s t := by
  cases i with
  | sys nnn => exact .of_next h (.raised _ _ _ (by simp [Instr.rowNumber]))
  | cls x => exact .of_next h (.cleared _ rfl)
  | ret x => exact .ret h
  | jp nnn => exact .of_next h (.setPc s _ (by simp [Instr.rowNumber]))
  | call nnn => exact .call h
  | seImm x nn => exact .of_next h (.skipIf s _ (by simp [Instr.rowNumber]))
  | sneImm x nn => exact .of_next h (.skipIf s _ (by simp [Instr.rowNumber]))
  | seReg x y => exact .of_next h (.skipIf s _ (by simp [Instr.rowNumber]))
  | ldImm x nn => exact .of_next h (.wroteReg x _ (splitFields_xnn _ x nn).2.1 (by simp [Instr.rowNumber]))
  | addImm x nn => exact .of_next h (.wroteReg x _ (splitFields_xnn _ x nn).2.1 (by simp [Instr.rowNumber]))
  | ldReg x y => exact .of_next h (.wroteReg x _ (splitFields_xyn _ x y _).2.1 (by simp [Instr.rowNumber]))
  | orReg x y => exact .of_next h (.wroteReg x _ (splitFields_xyn _ x y _).2.1 (by simp [Instr.rowNumber]))
  | andReg x y => exact .of_next h (.wroteReg x _ (splitFields_xyn _ x y _).2.1 (by simp [Instr.rowNumber]))
  | xorReg x y => exact .of_next h (.wroteReg x _ (splitFields_xyn _ x y _).2.1 (by simp [Instr.rowNumber]))
  | addReg x y => exact .of_next h (.wroteResultFlag x _ _ (by simp [Instr.rowNumber]))
  | sub x y => exact .of_next h (.wroteResultFlag x _ _ (by simp [Instr.rowNumber]))
  | shr x y => exact .of_next h (.wroteResultFlag x _ _ (by simp [Instr.rowNumber]))
  | subn x y => exact .of_next h (.wroteResultFlag x _ _ (by simp [Instr.rowNumber]))
  | shl x y => exact .of_next h (.wroteResultFlag x _ _ (by simp [Instr.rowNumber]))
  | sneReg x y => exact .of_next h (.skipIf s _ (by simp [Instr.rowNumber]))
  | ldI nnn => exact .of_next h (.movedI _ (by simp [Instr.rowNumber]))
  | jpV0 nnn => exact .of_next h (.setPc s _ (by simp [Instr.rowNumber]))
  | rnd x nn => exact .of_next h (.drewByte x _ (splitFields_xnn _ x nn).2.1 rfl)
  | drw x y n => exact .of_next h (.drewSprite _ _ rfl)
  | skp x => exact .of_validIndex h (by simp [Instr.rowNumber]) (.skipIf s _ (by simp [Instr.rowNumber]))
  | sknp x => exact .of_validIndex h (by simp [Instr.rowNumber]) (.skipIf s _ (by simp [Instr.rowNumber]))
  | ldVxDt x => exact .of_next h (.wroteReg x _ (splitFields_xnn _ x _).2.1 (by simp [Instr.rowNumber]))
  | ldVxK x => exact .ldVxK h
  | ldDtVx x => exact .of_next h (.setDelay _ rfl)
  | ldStVx x => exact .of_next h (.setSound _ rfl)
  | addI x => exact .of_next h (.movedI _ (by simp [Instr.rowNumber]))
  | ldF x => exact .of_validIndex h (by simp [Instr.rowNumber]) (.movedI _ (by simp [Instr.rowNumber]))
  | ldB x => exact .of_next h (.storeBytes s _ rfl)
  | storeRegs x => exact .of_next h (.storeRegs x s)
  | loadRegs x => exact .of_next h (.loadRegs x s)

/-! ### What each instruction leaves as it was (10_state R42) -/

section
variable {i : Instr} {s t : State}

theorem Effect.host_eq (e : Effect i s t) : t.keys = s.keys ∧ t.quirks = s.quirks ∧ t.run = s.run ∧ t.acc = s.acc := by
  cases e <;> exact ⟨rfl, rfl, rfl, rfl⟩

theorem Effect.mem_eq (e : Effect i s t) (h : i.rowNumber ∉ [33, 34]) : t.mem = s.mem := by
  cases e with
  | stored _ _ row | dumped _ _ _ _ row => simp [row] at h
  | _ => rfl

theorem Effect.i_eq (e : Effect i s t) (h : i.rowNumber ∉ [21, 31, 32, 34, 35]) : t.i = s.i := by
  cases e with
  | movedI _ row => exact absurd (List.mem_append_left [34, 35] row) h
  | dumped _ _ _ _ row | loaded _ _ _ _ row => simp [row] at h
  | _ => rfl

theorem Effect.stack_eq (e : Effect i s t) (h : i.rowNumber ∉ [3, 5]) : t.sp = s.sp ∧ t.stack = s.stack := by
  cases e with
  | called _ _ row | returned _ _ row => simp [row] at h
  | _ => exact ⟨rfl, rfl⟩

theorem Effect.dt_eq (e : Effect i s t) (h : i.rowNumber ≠ 29) : t.dt = s.dt := by
  cases e with
  | setDelay _ row => exact absurd row h
  | _ => rfl

theorem Effect.st_eq (e : Effect i s t) (h : i.rowNumber ≠ 30) : t.st = s.st := by
  cases e with
  | setSound _ row => exact absurd row h
  | _ => rfl

theorem Effect.fb_eq (e : Effect i s t) (h : i.rowNumber ∉ [2, 24]) : t.fb = s.fb := by
  cases e with
  | cleared _ row | drewSprite _ _ row => simp [row] at h
  | _ => rfl

theorem Effect.diag_eq (e : Effect i s t) (h : i.rowNumber ∉ [1, 3, 5, 25, 26, 32]) : t.diag = s.diag := by
  cases e with
  | raised _ _ _ row => exact absurd row h
  | _ => rfl

theorem Effect.draws_eq (e : Effect i s t) (h : i.rowNumber ≠ 23) : t.draws = s.draws := by
  cases e with
  | drewByte _ _ _ row => exact absurd row h
  | _ => rfl

theorem Effect.pc_eq (e : Effect i s t) (h : i.rowNumber ∉ [3, 4, 5, 6, 7, 8, 20, 22, 25, 26, 28]) : t.pc = s.pc := by
  cases e with
  | movedPc _ _ row => exact absurd ((by decide : [4, 6, 7, 8, 20, 22, 25, 26, 28] ⊆ _) row) h
  | called _ _ row | returned _ _ row => simp [row] at h
  | _ => rfl

/-- A register changes only under a flag instruction where it is VF, under an instruction whose destination it is, or under a
bulk load that reaches it. -/
theorem Effect.readV_cases (e : Effect i s t) (r : Nibble) (h : t.readV r ≠ s.readV r) :
    i.rowNumber ∈ [15, 16, 17, 18, 19, 24] ∨
    i.rowNumber ∈ [9, 10, 11, 12, 13, 14, 23, 27, 28] ∧ (splitFields (encode i)).x = r ∨
    i.rowNumber = 35 ∧ r.toNat ≤ (splitFields (encode i)).x.toNat := by
  cases e with
  | wroteReg x b hx row =>
    refine .inr (.inl ⟨(by decide : [9, 10, 11, 12, 13, 14, 27, 28] ⊆ _) row, ?_⟩)
    exact hx.trans (by_contra fun hne => h (State.readV_writeV_ne s b (Ne.symm hne)))
  | drewByte x b hx row =>
    refine .inr (.inl ⟨by simp [row], ?_⟩)
    exact hx.trans (by_contra fun hne => h (State.readV_writeV_ne s.takeDraw b (Ne.symm hne)))
  | wroteResultFlag x b f row => exact .inl (List.mem_append_left [24] row)
  | drewSprite fb f row => exact .inl (by simp [row])
  | loaded x j hx hj row =>
    refine .inr (.inr ⟨row, hx ▸ by_contra fun hle => h ?_⟩)
    exact (State.readV_loadedRegs s x r).trans (if_neg hle)
  | _ => exact absurd rfl h

end

/-- Settles O15: no shape of an effect writes a piece of the host's, and neither do the advance of PC and the report of an
unrecognised word. -/
theorem noInstructionWritesHostState : Obligations.NoInstructionWritesHostState := by
  intro s t h
  rcases step_cases h with ⟨i, -, hexec⟩ | ⟨w, -, rfl⟩
  · exact (exec_effect hexec).host_eq
  · exact ⟨rfl, rfl, rfl, rfl⟩

/-- Settles O16: the contrapositions of the lemmas above, piece by piece. -/
theorem onlyTheListedInstructionsWriteEachPiece : Obligations.OnlyTheListedInstructionsWriteEachPiece := by
  intro i s t hexec
  have e := exec_effect hexec
  have hregs : (∃ r, t.readV r ≠ s.readV r) →
      i.rowNumber ∈ [9, 10, 11, 12, 13, 14, 15, 16, 17, 18, 19, 23, 24, 27, 28, 35] := by
    rintro ⟨r, hr⟩
    rcases e.readV_cases r hr with row | ⟨row, -⟩ | ⟨row, -⟩
    · exact (by decide : [15, 16, 17, 18, 19, 24] ⊆ _) row
    · exact (by decide : [9, 10, 11, 12, 13, 14, 23, 27, 28] ⊆ _) row
    · simp [row]
  have hstack : t.sp ≠ s.sp ∨ t.stack ≠ s.stack → i.rowNumber ∈ [3, 5] := by
    intro hne
    by_contra row
    obtain ⟨hsp, hstack⟩ := e.stack_eq row
    exact hne.elim (· hsp) (· hstack)
  exact ⟨fun hne => by_contra fun row => hne (e.mem_eq row), hregs, fun hne => by_contra fun row => hne (e.i_eq row),
    hstack, fun hne => by_contra fun row => hne (e.dt_eq row), fun hne => by_contra fun row => hne (e.st_eq row),
    fun hne => by_contra fun row => hne (e.fb_eq row), fun hne => by_contra fun row => hne (e.diag_eq row),
    fun hne => by_contra fun row => hne (e.draws_eq row)⟩

/-- Settles O17: VF is the destination V[X] only with X = 15, and a bulk load reaches it only with X = 15. -/
theorem onlyTheListedInstructionsWriteVf : Obligations.OnlyTheListedInstructionsWriteVf := by
  intro i s t h hne
  rcases (exec_effect h).readV_cases 15 hne with row | ⟨row, hx⟩ | ⟨row, hle⟩
  · exact .inl row
  · exact .inr ⟨List.mem_append_left [35] row, hx⟩
  · have hx : (splitFields (encode i)).x = 15 :=
      BitVec.eq_of_toNat_eq (Nat.le_antisymm (Nat.le_of_lt_succ (BitVec.isLt _)) hle)
    exact .inr ⟨by simp [row], hx⟩

end Sys2Proof.Machine
end

section
/-! PROOFS. The invariant (10_state R24, R26, R28, R29, R36, R40): it holds after Reset, every slot keeps it, and so does every
operation of the host. -/

namespace Sys2Proof.Machine

section
variable {p : Params} {s : State}

/-! ### The invariant under the operations on the state -/

theorem State.Inv.quantum_pos (h : s.Inv p) : 0 < p.quantum := Nat.zero_lt_of_lt h.acc

theorem State.Inv.setPc (h : s.Inv p) (n : Nat) : (s.setPc n).Inv p := { h with pc := State.setPc_lt s n }

theorem State.Inv.advancePc (h : s.Inv p) : s.advancePc.Inv p := h.setPc _

theorem State.Inv.raise (h : s.Inv p) (kind : EventKind) (w : Word) (b : Byte) : (s.raise kind w b).Inv p := { h with }

/-- PC is the address pushed, and there is room for it. -/
theorem State.Inv.push_pc (h : s.Inv p) (h16 : s.sp.toNat < 16) : (s.push s.pc h16).Inv p where
  mem := h.mem
  pc := h.pc
  i := h.i
  sp := by rw [State.toNat_push_sp]; exact h16
  stack a ha := by
    obtain ha | rfl := Vector.mem_or_eq_of_mem_set (hi := h16) (Vector.mem_toList_iff.1 ha)
    · exact h.stack a (Vector.mem_toList_iff.2 ha)
    · exact h.pc
  acc := h.acc

theorem State.Inv.pop (h : s.Inv p) (h16 : s.sp.toNat - 1 < 16) (hpos : 0 < s.sp.toNat) : (s.pop h16).Inv p where
  mem := h.mem
  pc := State.setPc_lt _ _
  i := h.i
  sp := by rw [State.toNat_pop_sp h16 hpos]; exact Nat.le_of_lt h16
  stack := h.stack
  acc := h.acc

theorem State.Inv.storeBytes (h : s.Inv p) (i : Word) (k : Nat) (bs : List Byte) : (s.storeBytes i k bs).Inv p := by
  rw [State.storeBytes_eq]
  exact { h with mem := State.wf_storeBytes i k bs h.mem }

/-- The real time left after whole quanta is below one. -/
theorem State.Inv.timerPhase (h : s.Inv p) (elapsed : Nat) : (s.timerPhase p elapsed).Inv p :=
  { h with acc := Nat.mod_lt _ h.quantum_pos }

theorem State.inv_reset (hq : 0 < p.quantum) : State.reset.Inv p where
  mem := State.wf_reset
  pc := by decide
  i := by decide
  sp := by decide
  stack a ha := by
    have h0 : a = 0 := (Vector.mem_replicate.1 (Vector.mem_toList_iff.1 ha)).2
    simp [h0]
  acc := hq

/-- At parameters with a quantum, the state Reset makes meets the invariant: the switches are no part of it, and the font is
stored into canonical memory. -/
theorem State.inv_resetWith (hq : 0 < p.quantum) : (State.resetWith p).Inv p :=
  State.Inv.storeBytes (s := { State.reset with quirks := p.quirkReset }) { State.inv_reset hq with } _ _ _

theorem Params.quantum_pos (h : p.valid) : 0 < p.quantum := by
  obtain ⟨hpos, hmod⟩ := h
  simp only [Params.quantum]
  omega

/-! ### One slot -/

theorem Effect.inv {i : Instr} {t : State} (e : Effect i s t) (h : s.Inv p) : t.Inv p := by
  cases e with
  | movedPc a ha => exact { h with pc := ha.elim (· ▸ h.pc) id }
  | called h16 n => exact (h.push_pc h16).setPc n
  | returned h16 hpos => exact h.pop h16 hpos
  | movedI n => exact { h with i := State.setI_lt s n }
  | stored m hm => exact { h with mem := hm h.mem }
  | dumped m j hm hj => exact { h with mem := hm h.mem, i := hj.elim (· ▸ h.i) id }
  | loaded x j hx hj => exact { h with i := hj.elim (· ▸ h.i) id }
  | _ => exact { h with }

theorem step_keeps_inv {t : State} (h : s.Inv p) (hstep : step s = .next t) : t.Inv p := by
  rcases step_cases hstep with ⟨i, -, hexec⟩ | ⟨w, -, rfl⟩
  · exact (exec_effect hexec).inv h.advancePc
  · exact h.advancePc.raise _ _ _

/-! ### A tick -/

theorem slots_keep_inv {k : Nat} {t : State} (h : s.Inv p) (hslots : slots k s = .next t) : t.Inv p := by
  induction k generalizing s with
  | zero => exact Host.Outcome.next.inj hslots ▸ h
  | succ k ih =>
    obtain ⟨u, hstep, hrest⟩ := Result.andThen_eq_next.1 hslots
    exact ih (step_keeps_inv h hstep) hrest

theorem instructionPhase_keeps_inv {k : Nat} {t : State} (h : s.Inv p) (hphase : instructionPhase k s = .next t) :
    t.Inv p := by
  unfold instructionPhase at hphase
  split at hphase
  · exact slots_keep_inv h hphase
  · split at hphase
    · obtain ⟨u, hstep, hrun⟩ := Result.andThen_eq_next.1 hphase
      exact Host.Outcome.next.inj hrun ▸ { step_keeps_inv h hstep with }
    · exact Host.Outcome.next.inj hphase ▸ h
  · exact Host.Outcome.next.inj hphase ▸ h

theorem tick_keeps_inv {k elapsed : Nat} {t : State} (h : s.Inv p) (htick : tick p k elapsed s = .next t) : t.Inv p := by
  obtain ⟨u, hphase, htimer⟩ := Result.andThen_eq_next.1 htick
  exact Host.Outcome.next.inj htimer ▸ (instructionPhase_keeps_inv h hphase).timerPhase elapsed

/-! ### Every operation of the host -/

theorem loadProgram_keeps_inv {image : List Byte} {t : State} (h : s.Inv p) (hload : loadProgram image s = .next t) :
    t.Inv p := by
  unfold loadProgram at hload
  split at hload
  · exact Host.Outcome.next.inj hload ▸ h.storeBytes _ _ _
  · cases hload

end

/-- Settles O10: each shape of an effect keeps the invariant, after the advance of PC, which keeps it too. -/
theorem everyStepKeepsInvariant : Obligations.EveryStepKeepsInvariant :=
  fun _ _ _ => step_keeps_inv

/-- Settles O11: a tick by induction on its slots, a load and Reset by the canonical form of memory; the other operations
write no piece the invariant speaks of. -/
theorem everyHostOperationKeepsInvariant : Obligations.EveryHostOperationKeepsInvariant := by
  intro p op s t h hop
  cases op with
  | reset => exact Host.Outcome.next.inj hop ▸ { State.inv_resetWith h.quantum_pos with }
  | loadProgram image => exact loadProgram_keeps_inv h hop
  | tick k elapsed => exact tick_keeps_inv h hop
  | _ => exact Host.Outcome.next.inj hop ▸ { h with }

/-- Settles O9: a valid REF_HZ gives a QUANTUM above 0, and State.reset is the reset state at the reference parameters. -/
theorem resetStateMeetsInvariant : Obligations.ResetStateMeetsInvariant :=
  ⟨State.resetWith_reference ▸ State.inv_resetWith (by decide), fun _ hp => State.inv_resetWith (Params.quantum_pos hp)⟩

end Sys2Proof.Machine
end

section
/-! PROOFS. The PC each instruction leaves (the table of 10_state R27). -/

namespace Sys2Proof.Machine

/-! ### PC after the operations that write it -/

/-- The second advance of a skip: a + 4 from the address fetched. -/
theorem pcPlus_two_two (a : Word) : pcPlus (pcPlus a 2) 2 = pcPlus a 4 :=
  BitVec.eq_of_toNat_eq (by simp only [pcPlus, BitVec.toNat_ofNat]; omega)

theorem State.skipIf_advancePc_pc (s : State) (c : Bool) :
    (s.advancePc.skipIf c).pc = if c = true then pcPlus s.pc 4 else pcPlus s.pc 2 := by
  cases c with
  | true => exact pcPlus_two_two s.pc
  | false => rfl

/-- The rewind of LD Vx, K undoes the advance of the fetch. -/
theorem State.rewindPc_advancePc_pc {s : State} (h : s.pc.toNat < 4096) : s.advancePc.rewindPc.pc = s.pc :=
  BitVec.eq_of_toNat_eq (by simp; omega)

theorem State.setPc_nnn (s : State) (nnn : Addr) : (s.setPc nnn.toNat).pc = nnn.setWidth 16 :=
  BitVec.eq_of_toNat_eq (by have := nnn.isLt; simp; omega)

/-- Where every stacked address is below 4096, RET's PC is the entry itself. -/
theorem State.pop_pc_eq {s : State} (h16 : s.sp.toNat - 1 < 16) (hstack : ∀ a ∈ s.stack.toList, a.toNat < 4096) :
    (s.pop h16).pc = s.stack[s.sp.toNat - 1]?.getD 0 := by
  have hlt := hstack s.stack[s.sp.toNat - 1] (by simp)
  simp [Nat.mod_eq_of_lt hlt, h16]

theorem State.leastKeyDown_eq_none_iff_not_mem (s : State) : s.leastKeyDown = none ↔ true ∉ s.keys.toList := by
  rw [State.leastKeyDown_eq_none, Vector.mem_toList_iff, Vector.mem_iff_getElem]
  simp

/-- A key index above 15 selects no key. -/
theorem State.keys_of_not_validIndex (s : State) {b : Byte} (h : ¬ validIndex b = true) : s.keys[b.toNat]? = none := by
  rw [validIndex_iff] at h
  simp; omega

/-! ### The rows of the table -/

section
variable {s t : State}

/-- SKP and SKNP: for a key the test decides the skip; a number above 15 selects no key and is reported, with PC at a + 2. -/
theorem keySkip_pc {b : Byte} {c d : Bool} {kind : EventKind} {w : Word}
    (hc : b.toNat < 16 → (c = true ↔ s.keys[b.toNat]? = some d))
    (h : (if validIndex b then .next (s.advancePc.skipIf c) else .next (s.advancePc.raise kind w b) : Result) = .next t) :
    t.pc = if s.keys[b.toNat]? = some d then pcPlus s.pc 4 else pcPlus s.pc 2 := by
  split at h
  · next hv =>
    have hlt : b.toNat < 16 := Nat.lt_succ_of_le ((validIndex_iff b).1 hv)
    rw [← Host.Outcome.next.inj h, State.skipIf_advancePc_pc]
    exact if_congr (hc hlt) rfl rfl
  · next hv =>
    have hkey : s.keys[b.toNat]? ≠ some d := by
      rw [s.keys_of_not_validIndex hv]
      exact nofun
    rw [← Host.Outcome.next.inj h, if_neg hkey]
    rfl

theorem skp_pc {x : Nibble} (h : exec (.skp x) s.advancePc = .next t) : t.pc = pcAfter s (.skp x) :=
  keySkip_pc (c := s.keyDown (s.readV x).toNat) (fun hlt => by simp [State.keyDown_eq s hlt, hlt]) h

theorem sknp_pc {x : Nibble} (h : exec (.sknp x) s.advancePc = .next t) : t.pc = pcAfter s (.sknp x) :=
  keySkip_pc (c := !s.keyDown (s.readV x).toNat) (fun hlt => by simp [State.keyDown_eq s hlt, hlt]) h

theorem ldVxK_pc {x : Nibble} (hpc : s.pc.toNat < 4096) (h : exec (.ldVxK x) s.advancePc = .next t) :
    t.pc = pcAfter s (.ldVxK x) := by
  simp only [exec, execLdVxK] at h
  split at h
  · next hk =>
    rw [← Host.Outcome.next.inj h, State.rewindPc_advancePc_pc hpc, pcAfter,
      if_neg (s.leastKeyDown_eq_none_iff_not_mem.1 hk)]
  · next k hk =>
    have hdown : true ∈ s.keys.toList := by_contra fun hn =>
      Option.some_ne_none k (hk.symm.trans (s.leastKeyDown_eq_none_iff_not_mem.2 hn))
    rw [← Host.Outcome.next.inj h, pcAfter, if_pos hdown]
    rfl

theorem call_pc {nnn : Addr} (h : exec (.call nnn) s.advancePc = .next t) : t.pc = pcAfter s (.call nnn) := by
  obtain ⟨hfull, rfl⟩ | ⟨h16, rfl⟩ := exec_call_cases h
  · exact (if_pos hfull).symm
  · exact (State.setPc_nnn _ nnn).trans (if_neg (Nat.ne_of_lt h16)).symm

theorem ret_pc {x : Nibble} (hstack : ∀ a ∈ s.stack.toList, a.toNat < 4096)
    (h : exec (.ret x) s.advancePc = .next t) : t.pc = pcAfter s (.ret x) := by
  obtain ⟨h0, rfl⟩ | ⟨h16, hpos, rfl⟩ := exec_ret_cases h
  · exact (if_pos h0).symm
  · exact (State.pop_pc_eq (s := s.advancePc) h16 hstack).trans (if_neg (Nat.ne_of_gt hpos)).symm

/-- The table, row by row; the last arm is every instruction that leaves PC where the fetch has put it. -/
theorem exec_pc {p : Params} {i : Instr} (hs : s.Inv p) (h : exec i s.advancePc = .next t) : t.pc = pcAfter s i := by
  cases i with
  | seImm x nn =>
    rw [← Host.Outcome.next.inj h, State.skipIf_advancePc_pc]
    simp [pcAfter]
  | sneImm x nn =>
    rw [← Host.Outcome.next.inj h, State.skipIf_advancePc_pc]
    simp [pcAfter]
  | seReg x y =>
    rw [← Host.Outcome.next.inj h, State.skipIf_advancePc_pc]
    simp [pcAfter]
  | sneReg x y =>
    rw [← Host.Outcome.next.inj h, State.skipIf_advancePc_pc]
    simp [pcAfter]
  | skp x => exact skp_pc h
  | sknp x => exact sknp_pc h
  | jp nnn => exact Host.Outcome.next.inj h ▸ State.setPc_nnn _ nnn
  | call nnn => exact call_pc h
  | jpV0 nnn =>
    have hn : (nnn.setWidth 16).toNat = nnn.toNat := BitVec.toNat_setWidth_of_le (by decide)
    rw [← Host.Outcome.next.inj h, pcAfter, pcPlus, hn]
    rfl
  | ret x => exact ret_pc hs.stack h
  | ldVxK x => exact ldVxK_pc hs.pc h
  | _ => exact (exec_effect h).pc_eq (by simp [Instr.rowNumber])

end

/-- Settles O18: a recognised word by the rows of the table, an unrecognised one by the advance of the fetch. -/
theorem everyInstructionLeavesPcAsTabled : Obligations.EveryInstructionLeavesPcAsTabled := by
  refine fun p s t hs hstep => ⟨fun i hi => ?_, fun w hw => ?_⟩
  · rw [step_recognised hi] at hstep
    exact exec_pc hs hstep
  · rw [step_unrecognised hw] at hstep
    exact Host.Outcome.next.inj hstep ▸ rfl

end Sys2Proof.Machine
end

section
/-! PROOFS. What a step does not read. A state is altered in the pieces most instructions never look at, and the instruction does
the same to the altered state: the quirk switches (10_state R38), the place in the RND input (R20, R45), the stack (R30), and
RUN, ACC and DIAG (60_exceptions R230). -/

namespace Sys2Proof.Machine

/-! ### Altered states -/

/-- A change of the quirk switches, the place in the RND input, the stack, the run state, the accumulator and the diagnostic
output, each left alone unless given. -/
structure Alteration where
  quirks : Quirks → Quirks := id
  draws : Nat → Nat := id
  stack : Vector Word 16 → Vector Word 16 := id
  run : RunState → RunState := id
  acc : Nat → Nat := id
  diag : List Event → List Event := id

def State.altered (s : State) (a : Alteration) : State :=
  { s with quirks := a.quirks s.quirks, draws := a.draws s.draws, stack := a.stack s.stack, run := a.run s.run,
           acc := a.acc s.acc, diag := a.diag s.diag }

/-- A record appended to the altered output is the altered output of the record appended. -/
def Alteration.Appends (a : Alteration) (s : State) : Prop := ∀ e, a.diag (s.diag ++ [e]) = a.diag s.diag ++ [e]

/-- The instruction `i` run on `s` reads no piece that `a` changes. -/
structure Alteration.Unread (a : Alteration) (i : Instr) (s : State) : Prop where
  quirks : i.rowNumber ∈ [17, 19, 24, 34, 35] → a.quirks = id
  draws : i.rowNumber = 23 → a.draws = id
  stack : i.rowNumber ∈ [3, 5] → a.stack = id
  diag : a.Appends s

section
variable (a : Alteration) (s : State)

@[simp] theorem State.readV_altered (r : Nibble) : (s.altered a).readV r = s.readV r := rfl
@[simp] theorem State.leastKeyDown_altered : (s.altered a).leastKeyDown = s.leastKeyDown := rfl

theorem State.skipIf_altered (c : Bool) : (s.altered a).skipIf c = (s.skipIf c).altered a := by
  cases c <;> rfl

theorem State.storeBytes_altered (i : Word) (k : Nat) (bs : List Byte) :
    (s.altered a).storeBytes i k bs = (s.storeBytes i k bs).altered a := by
  induction bs generalizing s k with
  | nil => rfl
  | cons b bs ih => exact ih (s.memWrite (effAddr i k) b) (k + 1)

end

section
variable {a : Alteration} {s t : State}

theorem State.raise_altered (ha : a.Appends s) (kind : EventKind) (w : Word) (b : Byte) :
    (s.altered a).raise kind w b = (s.raise kind w b).altered a := by
  simp [State.raise, State.altered, ha _]

theorem State.shiftSource_altered (ha : a.quirks = id) (x y : Nibble) :
    (s.altered a).shiftSource x y = s.shiftSource x y := by
  have hq : (s.altered a).quirks = s.quirks := congrFun ha s.quirks
  simp only [State.shiftSource, hq, State.readV_altered]

theorem State.bulkIndex_altered (ha : a.quirks = id) (x : Nibble) :
    (s.altered a).bulkIndex x = (s.bulkIndex x).altered a := by
  have hq : (s.altered a).quirks = s.quirks := congrFun ha s.quirks
  unfold State.bulkIndex
  rw [hq]
  split <;> rfl

theorem State.push_altered (ha : a.stack = id) (w : Word) (h : s.sp.toNat < 16) :
    (s.altered a).push w h = (s.push w h).altered a := by
  simp [State.push, State.altered, ha]

theorem State.pop_altered (ha : a.stack = id) (h : s.sp.toNat - 1 < 16) : (s.altered a).pop h = (s.pop h).altered a := by
  simp [State.pop, State.altered, State.setPc, ha]

theorem State.takeDraw_altered (ha : a.draws = id) : (s.altered a).takeDraw = s.takeDraw.altered a := by
  simp [State.takeDraw, State.altered, ha]

theorem State.nextRandomByte_altered (ha : a.draws = id) : (s.altered a).nextRandomByte = s.nextRandomByte := by
  simp [State.nextRandomByte, State.altered, ha]

/-! ### Instructions on altered states -/

/-- The next state altered; a fault or a refusal stays what it is. -/
def Result.altered (r : Result) (a : Alteration) : Result := Result.andThen r fun t => .next (t.altered a)

theorem execRet_altered (x : Nibble) (hs : a.stack = id) (hd : a.Appends s) :
    execRet x (s.altered a) = Result.altered (execRet x s) a := by
  rcases s.sp_cases_ret with h0 | ⟨hpos, h16⟩ | habove
  · rw [execRet_empty x h0, execRet_empty x (s := s.altered a) h0, State.raise_altered hd]
    rfl
  · rw [execRet_pop x hpos h16, execRet_pop x (s := s.altered a) hpos h16, State.pop_altered hs]
    rfl
  · rw [execRet_above x habove, execRet_above x (s := s.altered a) habove]
    rfl

theorem execCall_altered (nnn : Addr) (hs : a.stack = id) (hd : a.Appends s) :
    execCall nnn (s.altered a) = Result.altered (execCall nnn s) a := by
  rcases Nat.lt_trichotomy s.sp.toNat 16 with h16 | hfull | habove
  · rw [execCall_push nnn h16, execCall_push nnn (s := s.altered a) h16, State.push_altered hs]
    rfl
  · rw [execCall_full nnn hfull, execCall_full nnn (s := s.altered a) hfull, State.raise_altered hd]
    rfl
  · rw [execCall_above nnn habove, execCall_above nnn (s := s.altered a) habove]
    rfl

theorem execDrw_altered (x y n : Nibble) (ha : a.quirks = id) :
    execDrw x y n (s.altered a) = Result.altered (execDrw x y n s) a := by
  have hq : (s.altered a).quirks = s.quirks := congrFun ha s.quirks
  simp only [execDrw, hq]
  rfl

theorem execStoreRegs_altered (x : Nibble) (ha : a.quirks = id) :
    execStoreRegs x (s.altered a) = Result.altered (execStoreRegs x s) a := by
  have hstore := State.storeBytes_altered a s s.i 0 (s.lowRegs x)
  exact congrArg _ ((congrArg (State.bulkIndex · x) hstore).trans (State.bulkIndex_altered ha x))

theorem execRnd_altered (x : Nibble) (nn : Byte) (ha : a.draws = id) :
    execRnd x nn (s.altered a) = Result.altered (execRnd x nn s) a := by
  simp only [execRnd, State.takeDraw_altered ha, State.nextRandomByte_altered ha]
  rfl

theorem execLdVxK_altered (x : Nibble) : execLdVxK x (s.altered a) = Result.altered (execLdVxK x s) a := by
  simp only [execLdVxK, State.leastKeyDown_altered]
  split <;> rfl

/-- Running on the altered state or reporting: both commute with the alteration. -/
theorem ifValid_altered {b : Byte} {u u' : State} {kind : EventKind} {w : Word}
    (hd : a.Appends s) (hu : u' = u.altered a) :
    (if validIndex b then .next u' else .next ((s.altered a).raise kind w b) : Result) =
      Result.altered (if validIndex b then .next u else .next (s.raise kind w b)) a := by
  split
  · exact congrArg _ hu
  · exact congrArg _ (State.raise_altered hd _ _ _)

/-- An instruction does to an altered state what it does to the state, where it reads no piece altered. -/
theorem exec_altered {i : Instr} (ha : a.Unread i s) : exec i (s.altered a) = Result.altered (exec i s) a := by
  cases i with
  | sys nnn => exact congrArg _ (State.raise_altered ha.diag _ _ _)
  | ret x => exact execRet_altered x (ha.stack (by simp [Instr.rowNumber])) ha.diag
  | call nnn => exact execCall_altered nnn (ha.stack (by simp [Instr.rowNumber])) ha.diag
  | seImm x nn => exact congrArg _ (State.skipIf_altered a s _)
  | sneImm x nn => exact congrArg _ (State.skipIf_altered a s _)
  | seReg x y => exact congrArg _ (State.skipIf_altered a s _)
  | sneReg x y => exact congrArg _ (State.skipIf_altered a s _)
  | shr x y =>
    have hsrc := State.shiftSource_altered (s := s) (ha.quirks (by simp [Instr.rowNumber])) x y
    simp only [exec, execShr, hsrc]
    rfl
  | shl x y =>
    have hsrc := State.shiftSource_altered (s := s) (ha.quirks (by simp [Instr.rowNumber])) x y
    simp only [exec, execShl, hsrc]
    rfl
  | rnd x nn => exact execRnd_altered x nn (ha.draws rfl)
  | drw x y n => exact execDrw_altered x y n (ha.quirks (by simp [Instr.rowNumber]))
  | skp x => exact ifValid_altered ha.diag (State.skipIf_altered a s _)
  | sknp x => exact ifValid_altered ha.diag (State.skipIf_altered a s _)
  | ldVxK x => exact execLdVxK_altered x
  | ldF x => exact ifValid_altered ha.diag rfl
  | ldB x => exact congrArg _ (State.storeBytes_altered a s _ _ _)
  | storeRegs x => exact execStoreRegs_altered x (ha.quirks (by simp [Instr.rowNumber]))
  | loadRegs x =>
    exact congrArg _ (State.bulkIndex_altered (s := { s with v := s.loadedRegs x }) (ha.quirks (by simp [Instr.rowNumber])) x)
  | _ => rfl

theorem step_altered (hd : a.Appends s)
    (ha : ∀ i, decode s.fetchWord = .recognised i → a.Unread i s.advancePc) (h : step s = .next t) :
    step (s.altered a) = .next (t.altered a) := by
  have hfetch : (s.altered a).fetchWord = s.fetchWord := rfl
  cases hdec : decode s.fetchWord with
  | recognised i =>
    rw [step_recognised hdec] at h
    rw [step_recognised (hfetch ▸ hdec)]
    exact (exec_altered (ha i hdec)).trans (congrArg (Result.altered · a) h)
  | unrecognised w =>
    rw [step_unrecognised hdec] at h
    rw [step_unrecognised (hfetch ▸ hdec), ← Host.Outcome.next.inj h]
    exact congrArg _ (State.raise_altered (s := s.advancePc) hd _ _ _)

end
end Sys2Proof.Machine
end

section
/-! PROOFS. Three pieces most instructions do not read: the quirk switches (10_state R38), the place in the RND input (R20, R45)
and the stack entries at and above SP (R30). -/

namespace Sys2Proof.Machine

/-! ### The quirk switches -/

/-- Settles O21: an instruction that is none of the five does not read altered quirk switches. -/
theorem onlyFiveInstructionsReadQuirks : Obligations.OnlyFiveInstructionsReadQuirks := by
  intro i s t q hrow h
  have ha : Alteration.Unread { quirks := fun _ => q } i s :=
    ⟨fun row => absurd row hrow, fun _ => rfl, fun _ => rfl, fun _ => rfl⟩
  exact (exec_altered ha).trans (congrArg (Result.altered · _) h)

/-! ### The place in the RND input -/

theorem Instr.eq_rnd_of_rowNumber {i : Instr} (h : i.rowNumber = 23) : ∃ x nn, i = .rnd x nn := by
  cases i with
  | rnd x nn => exact ⟨x, nn, rfl⟩
  | _ => simp [Instr.rowNumber] at h

/-- The second of two writes to a register is the one that stays. -/
theorem State.writeV_writeV (s : State) (x : Nibble) (b c : Byte) : (s.writeV x b).writeV x c = s.writeV x c := by
  simp [State.writeV]

/-- A step that does not run RND leaves the place and does not read it. -/
theorem step_of_not_rnd {s t : State} (n : Nat) (hr : ∀ x nn, decode s.fetchWord ≠ .recognised (.rnd x nn))
    (h : step s = .next t) : t.draws = s.draws ∧ step { s with draws := n } = .next { t with draws := n } := by
  have hrow : ∀ i, decode s.fetchWord = .recognised i → i.rowNumber ≠ 23 := by
    intro i hi row
    obtain ⟨x, nn, rfl⟩ := Instr.eq_rnd_of_rowNumber row
    exact hr x nn hi
  constructor
  · rcases step_cases h with ⟨i, hi, hexec⟩ | ⟨w, -, rfl⟩
    · exact (exec_effect hexec).draws_eq (hrow i hi)
    · rfl
  · exact step_altered (a := { draws := fun _ => n }) (fun _ => rfl)
      (fun i hi => ⟨fun _ => rfl, fun row => absurd row (hrow i hi), fun _ => rfl, fun _ => rfl⟩) h

theorem step_rnd {s : State} {x : Nibble} {nn : Byte} (h : decode s.fetchWord = .recognised (.rnd x nn)) :
    step s = .next (s.advancePc.takeDraw.writeV x (Config.randomByte s.draws &&& nn)) := step_recognised h

/-- Settles O57: any step but RND's by the alteration of the place alone; RND's by its two runs, which differ in the byte. -/
theorem onlyRandomReadsTheInputPosition : Obligations.OnlyRandomReadsTheInputPosition := by
  refine fun s t n h => ⟨fun hr => step_of_not_rnd n hr h, fun x nn hd => ?_⟩
  rw [step_rnd hd] at h
  rw [step_rnd (s := { s with draws := n }) hd, ← Host.Outcome.next.inj h, State.writeV_writeV]
  exact ⟨rfl, rfl⟩

/-! ### The stack entries at and above SP -/

section
variable {i : Instr} {s t : State} {st : Vector Word 16}

/-- An instruction that is neither CALL nor RET leaves both stacks as they are. -/
theorem exec_stack_of_not_call_ret (hs : SameBelowSp s { s with stack := st })
    (hrow : i.rowNumber ∉ [3, 5]) (h : exec i s = .next t) :
    ∃ t', exec i { s with stack := st } = .next t' ∧ SameBelowSp t t' := by
  obtain ⟨hsp, hstack⟩ := (exec_effect h).stack_eq hrow
  have ha : Alteration.Unread { stack := fun _ => st } i s :=
    ⟨fun _ => rfl, fun _ => rfl, fun row => absurd row hrow, fun _ => rfl⟩
  refine ⟨{ t with stack := st }, (exec_altered ha).trans (congrArg (Result.altered · _) h), rfl, ?_⟩
  rw [hsp, hstack]
  exact hs.entries

/-- CALL writes the entry at SP, and SP goes above it. -/
theorem exec_stack_of_call {nnn : Addr} (hs : SameBelowSp s { s with stack := st })
    (h : exec (.call nnn) s = .next t) :
    ∃ t', exec (.call nnn) { s with stack := st } = .next t' ∧ SameBelowSp t t' := by
  obtain ⟨hfull, rfl⟩ | ⟨h16, rfl⟩ := exec_call_cases h
  · exact ⟨_, execCall_full nnn hfull, rfl, hs.entries⟩
  · refine ⟨_, execCall_push (s := { s with stack := st }) nnn h16, rfl, fun k hk hlt => ?_⟩
    have hle : k < s.sp.toNat + 1 := State.toNat_push_sp s.pc h16 ▸ hlt
    simp only [State.setPc_stack, State.push_stack, Vector.getElem_set]
    split
    · rfl
    · exact hs.entries k hk (by omega)

/-- RET reads the entry below SP. -/
theorem exec_stack_of_ret {x : Nibble} (hs : SameBelowSp s { s with stack := st })
    (h : exec (.ret x) s = .next t) :
    ∃ t', exec (.ret x) { s with stack := st } = .next t' ∧ SameBelowSp t t' := by
  obtain ⟨h0, rfl⟩ | ⟨h16, hpos, rfl⟩ := exec_ret_cases h
  · exact ⟨_, execRet_empty x h0, rfl, hs.entries⟩
  · have hpopped : st[s.sp.toNat - 1] = s.stack[s.sp.toNat - 1] := hs.entries _ h16 (by omega)
    refine ⟨_, execRet_pop (s := { s with stack := st }) x hpos h16, ?_, fun k hk hlt => hs.entries k hk ?_⟩
    · simp [State.pop, State.setPc, hpopped]
    · rw [State.toNat_pop_sp h16 hpos] at hlt
      omega

theorem exec_sameBelowSp (hs : SameBelowSp s { s with stack := st }) (h : exec i s = .next t) :
    ∃ t', exec i { s with stack := st } = .next t' ∧ SameBelowSp t t' := by
  cases i with
  | call nnn => exact exec_stack_of_call hs h
  | ret x => exact exec_stack_of_ret hs h
  | _ => exact exec_stack_of_not_call_ret hs (by simp [Instr.rowNumber]) h

end

/-- Settles O20: CALL writes at SP before it counts the entry, RET reads below SP, and no other instruction touches the stack. -/
theorem stackEntriesAboveSpAreNeverRead : Obligations.StackEntriesAboveSpAreNeverRead := by
  intro s s' t hs h
  obtain ⟨st, rfl⟩ : ∃ st, s' = { s with stack := st } := ⟨s'.stack, hs.rest⟩
  rcases step_cases h with ⟨i, hi, hexec⟩ | ⟨w, hw, rfl⟩
  · rw [step_recognised (s := { s with stack := st }) hi]
    exact exec_sameBelowSp (s := s.advancePc) ⟨rfl, hs.entries⟩ hexec
  · exact ⟨_, step_unrecognised (s := { s with stack := st }) hw, rfl, hs.entries⟩

end Sys2Proof.Machine
end

section
/-! PROOFS. A byte stored is the byte read, by an operand access and by the next fetch (20_memory R64, R74). -/

namespace Sys2Proof.Machine

/-! ### One byte -/

/-- A read after a write, both addresses modulo 4096. -/
theorem State.memRead_memWrite {s : State} (a b : Nat) (v : Byte) (h : Memory.wf s.mem) :
    (s.memWrite a v).memRead b = if b % 4096 = a % 4096 then v else s.memRead b := by
  simp only [State.memRead, State.memWrite_mem, Config.memSize]
  split
  · next hab => rw [hab, Memory.read_write_same h]
  · next hab => exact Memory.read_write_ne v hab

/-- Settles O22: the read is the law of one byte, and memory is the one field the write names. -/
theorem memWriteSetsOneByte : Obligations.MemWriteSetsOneByte :=
  fun _ a b v h => ⟨State.memRead_memWrite a b v h, rfl⟩

/-! ### A bulk store -/

/-- After the successive stores of V[0..X] register r lies r bytes above the index. -/
theorem State.read_storeBytes_lowRegs {s : State} {x r : Nibble} (h : Memory.wf s.mem) (hr : r.toNat ≤ x.toNat) :
    Memory.read (s.storeBytes s.i 0 (s.lowRegs x)).mem (effAddr s.i r.toNat) = s.readV r := by
  have hx := x.isLt
  have hlen := State.length_lowRegs s x
  have hread := State.read_storeBytes_inside (i := s.i) (k := 0) (j := r.toNat) (bs := s.lowRegs x) h (by omega) (by omega)
  rwa [Nat.zero_add, State.getElem_lowRegs, BitVec.ofNat_toNat, BitVec.setWidth_eq] at hread

@[simp] theorem State.storeBytes_pc (s : State) (i : Word) (k : Nat) (bs : List Byte) : (s.storeBytes i k bs).pc = s.pc :=
  congrArg (·.pc) (State.storeBytes_eq s i k bs)

@[simp] theorem State.bulkIndex_pc (s : State) (x : Nibble) : (s.bulkIndex x).pc = s.pc :=
  congrArg (·.pc) (State.bulkIndex_eq s x)

@[simp] theorem State.bulkIndex_mem (s : State) (x : Nibble) : (s.bulkIndex x).mem = s.mem :=
  congrArg (·.mem) (State.bulkIndex_eq s x)

/-- The two bytes a fetch reads, at the effective addresses of an index register equal to PC. -/
theorem State.fetchWord_of_pc {t : State} {i : Word} (h : t.pc = i) :
    t.fetchWord = wordOfBytes (Memory.read t.mem (effAddr i 0)) (Memory.read t.mem (effAddr i 1)) := by
  subst h
  rfl

/-- Settles O49: the fetch reads at I and I + 1, where the bulk store has put V0 and V1; neither the stores nor the
move of I touch PC, and the move of I leaves memory alone. -/
theorem storedCodeIsFetchedNext : Obligations.StoredCodeIsFetchedNext := by
  intro x s h hx hi
  have h0 := State.read_storeBytes_lowRegs (r := 0) h (Nat.zero_le x.toNat)
  have h1 := State.read_storeBytes_lowRegs (r := 1) h hx
  have hpc : ((s.storeBytes s.i 0 (s.lowRegs x)).bulkIndex x).pc = s.i := by simp [hi]
  refine ⟨_, rfl, ?_⟩
  rw [State.fetchWord_of_pc hpc, State.bulkIndex_mem]
  exact congrArg₂ wordOfBytes h0 h1

end Sys2Proof.Machine
end

section
/-! PROOFS. The field split (30_encoding R92, R93): where each field stands in the word's number, what the fields make put together
again, and the table of R100 read by fields. -/

namespace Sys2Proof

section
variable (w : Word)

/-! ### The place of each field, and the three ways back to the word -/

theorem splitFields_toNat :
    (splitFields w).g.toNat = w.toNat / 4096 ∧ (splitFields w).x.toNat = w.toNat / 256 % 16 ∧
    (splitFields w).y.toNat = w.toNat / 16 % 16 ∧ (splitFields w).n.toNat = w.toNat % 16 ∧
    (splitFields w).nn.toNat = w.toNat % 256 ∧ (splitFields w).nnn.toNat = w.toNat % 4096 := by
  have hg : w.toNat / 4096 < 16 := Nat.div_lt_of_lt_mul w.isLt
  simpa [splitFields, Nat.shiftRight_eq_div_pow] using hg

theorem splitFields_append_nnn : (splitFields w).g ++ (splitFields w).nnn = w :=
  (BitVec.extractLsb'_append_extractLsb'_eq_extractLsb' rfl).trans BitVec.extractLsb'_eq_self

theorem splitFields_append_x_nn : (splitFields w).g ++ (splitFields w).x ++ (splitFields w).nn = w := by
  have hgx : (splitFields w).g ++ (splitFields w).x = w.extractLsb' 8 8 :=
    BitVec.extractLsb'_append_extractLsb'_eq_extractLsb' rfl
  rw [hgx]
  exact (BitVec.extractLsb'_append_extractLsb'_eq_extractLsb' rfl).trans BitVec.extractLsb'_eq_self

theorem splitFields_append_x_y_n :
    (splitFields w).g ++ (splitFields w).x ++ (splitFields w).y ++ (splitFields w).n = w := by
  have hgx : (splitFields w).g ++ (splitFields w).x = w.extractLsb' 8 8 :=
    BitVec.extractLsb'_append_extractLsb'_eq_extractLsb' rfl
  have hgxy : w.extractLsb' 8 8 ++ (splitFields w).y = w.extractLsb' 4 12 :=
    BitVec.extractLsb'_append_extractLsb'_eq_extractLsb' rfl
  rw [hgx, hgxy]
  exact (BitVec.extractLsb'_append_extractLsb'_eq_extractLsb' rfl).trans BitVec.extractLsb'_eq_self

end

/-- Settles O1: each field's number is the word's, shifted and cut; adjacent fields join to the bits they span. -/
theorem fieldsRecombineToTheWord : Obligations.FieldsRecombineToTheWord := by
  intro w
  obtain ⟨hg, hx, hy, hn, hnn, hnnn⟩ := splitFields_toNat w
  exact ⟨hg, hx, hy, hn, hnn, hnnn, splitFields_append_x_y_n w, splitFields_append_nnn w, splitFields_append_x_nn w⟩

/-! ### A word with given fields, layout by layout (R94) -/

section
variable {w : Word} {g n : Nibble} {nn : Byte}

theorem append_nnn_of_g (hg : (splitFields w).g = g) : g ++ (splitFields w).nnn = w := hg ▸ splitFields_append_nnn w

theorem append_x_nn_of_g (hg : (splitFields w).g = g) : g ++ (splitFields w).x ++ (splitFields w).nn = w :=
  hg ▸ splitFields_append_x_nn w

theorem append_x_of_g_nn (hg : (splitFields w).g = g) (hnn : (splitFields w).nn = nn) :
    g ++ (splitFields w).x ++ nn = w := hnn ▸ append_x_nn_of_g hg

theorem append_x_y_n_of_g (hg : (splitFields w).g = g) :
    g ++ (splitFields w).x ++ (splitFields w).y ++ (splitFields w).n = w := hg ▸ splitFields_append_x_y_n w

theorem append_x_y_of_g_n (hg : (splitFields w).g = g) (hn : (splitFields w).n = n) :
    g ++ (splitFields w).x ++ (splitFields w).y ++ n = w := hn ▸ append_x_y_n_of_g hg

end

/-! ### Masked words -/

theorem splitFields_of_mask {w m p : Word} (h : w &&& m = p) :
    (splitFields w).g &&& (splitFields m).g = (splitFields p).g ∧
      (splitFields w).n &&& (splitFields m).n = (splitFields p).n ∧
      (splitFields w).nn &&& (splitFields m).nn = (splitFields p).nn := by
  subst h
  simp [splitFields, BitVec.extractLsb'_and]

theorem and_lowByte_mask (w : Word) : w &&& 0x00FF = 0#8 ++ (splitFields w).nn := by
  conv_lhs => rw [← splitFields_append_x_nn w]
  exact (BitVec.and_append (x₂ := 0#8) (y₂ := 0xFF#8)).trans (by rw [BitVec.and_zero, Laws.RowPattern.and_ones8])

/-! ### The table of R100 -/

theorem unrecognisedWord_iff {w : Word} : Machine.unrecognisedWord w ↔
    ((splitFields w).g = 0x5#4 ∧ (splitFields w).n ≠ 0x0#4) ∨
    ((splitFields w).g = 0x8#4 ∧ (splitFields w).n ∈ [0x8#4, 0x9#4, 0xA#4, 0xB#4, 0xC#4, 0xD#4, 0xF#4]) ∨
    ((splitFields w).g = 0x9#4 ∧ (splitFields w).n ≠ 0x0#4) ∨
    ((splitFields w).g = 0xE#4 ∧ (splitFields w).nn ∉ [0x9E#8, 0xA1#8]) ∨
    ((splitFields w).g = 0xF#4 ∧
      (splitFields w).nn ∉ [0x07#8, 0x0A#8, 0x15#8, 0x18#8, 0x1E#8, 0x29#8, 0x33#8, 0x55#8, 0x65#8]) := by
  obtain ⟨hg, -, -, hn, hnn, -⟩ := splitFields_toNat w
  simp [Machine.unrecognisedWord, ← hg, ← hn, ← hnn, ← BitVec.toNat_inj]

end Sys2Proof
end

section
/-! PROOFS. Decode against encode, both ways, and the decoder's verdict on every word (30_encoding R96 to R101). -/

namespace Sys2Proof

/-! ### From the instruction to its word and back -/

theorem decode_encode {i : Instr} (hwf : i.wellFormed = true) : decode (encode i) = .recognised i := by
  cases i with
  | sys nnn =>
    simp only [Instr.wellFormed, Bool.and_eq_true, bne_iff_ne] at hwf
    obtain ⟨hE0, hEE⟩ := hwf
    simp [encode, decode, dispatchFields, decodeGroup0, splitFields_nnn, hE0, hEE]
  | jp nnn | call nnn | ldI nnn | jpV0 nnn => simp [encode, decode, dispatchFields, splitFields_nnn]
  | seImm x nn | sneImm x nn | ldImm x nn | addImm x nn | rnd x nn =>
    simp [encode, decode, dispatchFields, splitFields_xnn]
  | seReg x y | sneReg x y | drw x y n => simp [encode, decode, dispatchFields, splitFields_xyn]
  | cls x | ret x => simp [encode, decode, dispatchFields, decodeGroup0, splitFields_xnn]
  | ldReg x y | orReg x y | andReg x y | xorReg x y | addReg x y | sub x y | shr x y | subn x y | shl x y =>
    simp [encode, decode, dispatchFields, decodeGroup8, splitFields_xyn]
  | skp x | sknp x => simp [encode, decode, dispatchFields, decodeGroupE, splitFields_xnn]
  | ldVxDt x | ldVxK x | ldDtVx x | ldStVx x | addI x | ldF x | ldB x | storeRegs x | loadRegs x =>
    simp [encode, decode, dispatchFields, decodeGroupF, splitFields_xnn]

/-- Settles O2: the fields of an encoded instruction are its operands, and the dispatcher's group and secondary match are its own. -/
theorem decodeOfEncodeIsIdentity : Obligations.DecodeOfEncodeIsIdentity := fun _ hwf => decode_encode hwf

/-! ### The verdict on any word -/

/-- A verdict that is right about the word `w`: the instruction's word is `w`, or `w` stands in the table of R100. -/
inductive Decoded.Fits (w : Word) : Decoded → Prop
  | recognised {i : Instr} (henc : encode i = w) (hwf : i.wellFormed = true) : Fits w (.recognised i)
  | unrecognised (h : Machine.unrecognisedWord w) : Fits w (.unrecognised w)

section
variable {w : Word}

theorem decodeGroup0_fits (hg : (splitFields w).g = 0x0#4) : (decodeGroup0 (splitFields w)).Fits w := by
  unfold decodeGroup0
  split_ifs with hE0 hEE
  · exact .recognised (append_x_of_g_nn hg hE0) rfl
  · exact .recognised (append_x_of_g_nn hg hEE) rfl
  · have hlow : Addr.lowByte (splitFields w).nnn = (splitFields w).nn := by
      rw [← (splitFields_nnn (splitFields w).g (splitFields w).nnn).2.2, splitFields_append_nnn]
    exact .recognised (append_nnn_of_g hg) (by simp [Instr.wellFormed, hlow, hE0, hEE])

theorem decodeGroup8_fits (hg : (splitFields w).g = 0x8#4) : (decodeGroup8 w (splitFields w)).Fits w := by
  unfold decodeGroup8
  split_ifs with h0 h1 h2 h3 h4 h5 h6 h7 hE
  · exact .recognised (append_x_y_of_g_n hg h0) rfl
  · exact .recognised (append_x_y_of_g_n hg h1) rfl
  · exact .recognised (append_x_y_of_g_n hg h2) rfl
  · exact .recognised (append_x_y_of_g_n hg h3) rfl
  · exact .recognised (append_x_y_of_g_n hg h4) rfl
  · exact .recognised (append_x_y_of_g_n hg h5) rfl
  · exact .recognised (append_x_y_of_g_n hg h6) rfl
  · exact .recognised (append_x_y_of_g_n hg h7) rfl
  · exact .recognised (append_x_y_of_g_n hg hE) rfl
  · have hrest : ∀ n : Nibble, n ∉ [0x0#4, 0x1#4, 0x2#4, 0x3#4, 0x4#4, 0x5#4, 0x6#4, 0x7#4, 0xE#4] →
        n ∈ [0x8#4, 0x9#4, 0xA#4, 0xB#4, 0xC#4, 0xD#4, 0xF#4] := by decide
    have hn := hrest (splitFields w).n (by simp [h0, h1, h2, h3, h4, h5, h6, h7, hE])
    exact .unrecognised (unrecognisedWord_iff.mpr (.inr (.inl ⟨hg, hn⟩)))

theorem decodeGroupE_fits (hg : (splitFields w).g = 0xE#4) : (decodeGroupE w (splitFields w)).Fits w := by
  unfold decodeGroupE
  split_ifs with h9E hA1
  · exact .recognised (append_x_of_g_nn hg h9E) rfl
  · exact .recognised (append_x_of_g_nn hg hA1) rfl
  · exact .unrecognised (unrecognisedWord_iff.mpr (.inr (.inr (.inr (.inl ⟨hg, by simp [h9E, hA1]⟩)))))

theorem decodeGroupF_fits (hg : (splitFields w).g = 0xF#4) : (decodeGroupF w (splitFields w)).Fits w := by
  unfold decodeGroupF
  split_ifs with h07 h0A h15 h18 h1E h29 h33 h55 h65
  · exact .recognised (append_x_of_g_nn hg h07) rfl
  · exact .recognised (append_x_of_g_nn hg h0A) rfl
  · exact .recognised (append_x_of_g_nn hg h15) rfl
  · exact .recognised (append_x_of_g_nn hg h18) rfl
  · exact .recognised (append_x_of_g_nn hg h1E) rfl
  · exact .recognised (append_x_of_g_nn hg h29) rfl
  · exact .recognised (append_x_of_g_nn hg h33) rfl
  · exact .recognised (append_x_of_g_nn hg h55) rfl
  · exact .recognised (append_x_of_g_nn hg h65) rfl
  · have hnn : (splitFields w).nn ∉ [0x07#8, 0x0A#8, 0x15#8, 0x18#8, 0x1E#8, 0x29#8, 0x33#8, 0x55#8, 0x65#8] := by
      simp [h07, h0A, h15, h18, h1E, h29, h33, h55, h65]
    exact .unrecognised (unrecognisedWord_iff.mpr (.inr (.inr (.inr (.inr ⟨hg, hnn⟩)))))

/-- The decoder's verdict is right about every word, group by group. -/
theorem decode_fits (w : Word) : (decode w).Fits w := by
  unfold decode dispatchFields
  split
  case h_1 h => exact decodeGroup0_fits (BitVec.eq_of_toNat_eq h)
  case h_2 h | h_3 h | h_11 h | h_12 h => exact .recognised (append_nnn_of_g (BitVec.eq_of_toNat_eq h)) rfl
  case h_4 h | h_5 h | h_7 h | h_8 h | h_13 h => exact .recognised (append_x_nn_of_g (BitVec.eq_of_toNat_eq h)) rfl
  case h_6 h =>
    split_ifs with hn
    · exact .recognised (append_x_y_of_g_n (BitVec.eq_of_toNat_eq h) hn) rfl
    · exact .unrecognised (unrecognisedWord_iff.mpr (.inl ⟨BitVec.eq_of_toNat_eq h, hn⟩))
  case h_10 h =>
    split_ifs with hn
    · exact .recognised (append_x_y_of_g_n (BitVec.eq_of_toNat_eq h) hn) rfl
    · exact .unrecognised (unrecognisedWord_iff.mpr (.inr (.inr (.inl ⟨BitVec.eq_of_toNat_eq h, hn⟩))))
  case h_14 h => exact .recognised (append_x_y_n_of_g (BitVec.eq_of_toNat_eq h)) rfl
  case h_9 h => exact decodeGroup8_fits (BitVec.eq_of_toNat_eq h)
  case h_15 h => exact decodeGroupE_fits (BitVec.eq_of_toNat_eq h)
  case h_16 =>
    have hlt := (splitFields w).g.isLt
    have hg : (splitFields w).g.toNat = 15 := by grind
    exact decodeGroupF_fits (BitVec.eq_of_toNat_eq hg)

theorem encode_of_decode {i : Instr} (h : decode w = .recognised i) : encode i = w ∧ i.wellFormed = true := by
  have hfits := h ▸ decode_fits w
  cases hfits with
  | recognised henc hwf => exact ⟨henc, hwf⟩

theorem unrecognisedWord_of_decode {v : Word} (h : decode w = .unrecognised v) :
    v = w ∧ Machine.unrecognisedWord w := by
  have hfits := h ▸ decode_fits w
  cases hfits with
  | unrecognised hlisted => exact ⟨rfl, hlisted⟩

theorem decode_of_unrecognisedWord (h : Machine.unrecognisedWord w) : decode w = .unrecognised w := by
  obtain ⟨hg, hn⟩ | ⟨hg, hn⟩ | ⟨hg, hn⟩ | ⟨hg, hnn⟩ | ⟨hg, hnn⟩ := unrecognisedWord_iff.mp h
  · simp [decode, dispatchFields, hg, hn]
  · have hrest : ∀ n ∈ [0x8#4, 0x9#4, 0xA#4, 0xB#4, 0xC#4, 0xD#4, 0xF#4],
        n ∉ [0x0#4, 0x1#4, 0x2#4, 0x3#4, 0x4#4, 0x5#4, 0x6#4, 0x7#4, 0xE#4] := by decide
    have hother := hrest _ hn
    simp only [List.mem_cons, List.not_mem_nil, or_false, not_or] at hother
    simp [decode, dispatchFields, decodeGroup8, hg, hother]
  · simp [decode, dispatchFields, hg, hn]
  · simp only [List.mem_cons, List.not_mem_nil, or_false, not_or] at hnn
    simp [decode, dispatchFields, decodeGroupE, hg, hnn]
  · simp only [List.mem_cons, List.not_mem_nil, or_false, not_or] at hnn
    simp [decode, dispatchFields, decodeGroupF, hg, hnn]

end

/-- Settles O3: the recognising half of the verdict. -/
theorem encodeOfDecodeIsIdentity : Obligations.EncodeOfDecodeIsIdentity := fun _ _ h => encode_of_decode h

/-- Settles O5: a listed word falls through its group's secondary match, and only a listed word does. -/
theorem unrecognisedWordsAreThoseListed : Obligations.UnrecognisedWordsAreThoseListed := by
  refine fun w => ⟨decode_of_unrecognisedWord, fun hlisted => ?_⟩
  cases h : decode w with
  | recognised i => exact ⟨i, rfl⟩
  | unrecognised v => exact absurd (unrecognisedWord_of_decode h).2 hlisted

/-- Settles O6: the decoder evaluated on ten words. -/
theorem sampleWordsDecode : Obligations.SampleWordsDecode := by
  unfold Obligations.SampleWordsDecode
  decide

end Sys2Proof
end

section
/-! PROOFS. The opcode map of 30_encoding R98: a word selects a row by mask and match exactly when it decodes to an instruction of
that row. -/

namespace Sys2Proof.Laws.RowPattern

/-- The family's statement at every instruction. -/
theorem passes_own_row (i : Instr) : Statement i := by
  cases i with
  | sys nnn => exact sys nnn
  | cls x => exact cls x
  | ret x => exact ret x
  | jp nnn => exact jp nnn
  | call nnn => exact call nnn
  | seImm x nn => exact seImm x nn
  | sneImm x nn => exact sneImm x nn
  | seReg x y => exact seReg x y
  | ldImm x nn => exact ldImm x nn
  | addImm x nn => exact addImm x nn
  | ldReg x y => exact ldReg x y
  | orReg x y => exact orReg x y
  | andReg x y => exact andReg x y
  | xorReg x y => exact xorReg x y
  | addReg x y => exact addReg x y
  | sub x y => exact sub x y
  | shr x y => exact shr x y
  | subn x y => exact subn x y
  | shl x y => exact shl x y
  | sneReg x y => exact sneReg x y
  | ldI nnn => exact ldI nnn
  | jpV0 nnn => exact jpV0 nnn
  | rnd x nn => exact rnd x nn
  | drw x y n => exact drw x y n
  | skp x => exact skp x
  | sknp x => exact sknp x
  | ldVxDt x => exact ldVxDt x
  | ldVxK x => exact ldVxK x
  | ldDtVx x => exact ldDtVx x
  | ldStVx x => exact ldStVx x
  | addI x => exact addI x
  | ldF x => exact ldF x
  | ldB x => exact ldB x
  | storeRegs x => exact storeRegs x
  | loadRegs x => exact loadRegs x

end Sys2Proof.Laws.RowPattern

namespace Sys2Proof

/-! ### The table -/

/-- A row's mask keeps the group, the group and the low nibble, or the group and the low byte. -/
theorem mask_of_mem_opcodeRows : ∀ row ∈ opcodeRows, row.2.1 = 0xF000 ∨ row.2.1 = 0xF00F ∨ row.2.1 = 0xF0FF := by
  decide

theorem eq_of_rowNumber_eq : ∀ row ∈ opcodeRows, ∀ row' ∈ opcodeRows, row.1 = row'.1 → row = row' := by
  have hnum : (opcodeRows.map (·.1)).Nodup := by decide
  exact fun _ hrow _ hrow' h => List.inj_on_of_nodup_map hnum hrow hrow' h

/-! ### From the row to the instruction: what the dispatcher reads from the fields that the row's mask keeps -/

section
variable {k : Nat} {p : Word} {f : Fields}

/-- The rows whose mask keeps the group alone, row 1 with its exclusion apart. -/
theorem dispatchFields_of_group_row (hrow : (k, 0xF000, p) ∈ opcodeRows) (hk : k ≠ 1) (hg : f.g = (splitFields p).g)
    (w : Word) : ∃ i, dispatchFields w f = .recognised i ∧ i.rowNumber = k := by
  simp only [opcodeRows, BitVec.ofNat_eq_ofNat, List.cons_append, List.nil_append, List.mem_cons, Prod.mk.injEq,
    hk, true_and, false_and, BitVec.reduceEq, and_false, List.not_mem_nil, or_self, or_false, false_or] at hrow
  rcases hrow with ⟨rfl, rfl⟩ | ⟨rfl, rfl⟩ | ⟨rfl, rfl⟩ | ⟨rfl, rfl⟩ | ⟨rfl, rfl⟩ | ⟨rfl, rfl⟩ | ⟨rfl, rfl⟩ |
    ⟨rfl, rfl⟩ | ⟨rfl, rfl⟩ | ⟨rfl, rfl⟩ <;>
    simp [dispatchFields, hg, splitFields, Instr.rowNumber]

/-- The rows whose mask keeps the group and the low nibble. -/
theorem dispatchFields_of_nibble_row (hrow : (k, 0xF00F, p) ∈ opcodeRows) (hg : f.g = (splitFields p).g)
    (hn : f.n = (splitFields p).n) (w : Word) : ∃ i, dispatchFields w f = .recognised i ∧ i.rowNumber = k := by
  simp only [opcodeRows, BitVec.ofNat_eq_ofNat, List.cons_append, List.nil_append, List.mem_cons, Prod.mk.injEq,
    BitVec.reduceEq, false_and, and_false, true_and, List.not_mem_nil, or_self, or_false, false_or] at hrow
  rcases hrow with ⟨rfl, rfl⟩ | ⟨rfl, rfl⟩ | ⟨rfl, rfl⟩ | ⟨rfl, rfl⟩ | ⟨rfl, rfl⟩ | ⟨rfl, rfl⟩ | ⟨rfl, rfl⟩ |
    ⟨rfl, rfl⟩ | ⟨rfl, rfl⟩ | ⟨rfl, rfl⟩ | ⟨rfl, rfl⟩ <;>
    simp [dispatchFields, decodeGroup8, hg, hn, splitFields, Instr.rowNumber]

/-- The rows whose mask keeps the group and the low byte. -/
theorem dispatchFields_of_byte_row (hrow : (k, 0xF0FF, p) ∈ opcodeRows) (hg : f.g = (splitFields p).g)
    (hnn : f.nn = (splitFields p).nn) (w : Word) : ∃ i, dispatchFields w f = .recognised i ∧ i.rowNumber = k := by
  simp only [opcodeRows, BitVec.ofNat_eq_ofNat, List.cons_append, List.nil_append, List.mem_cons, Prod.mk.injEq,
    BitVec.reduceEq, false_and, and_false, true_and, List.not_mem_nil, or_false, false_or] at hrow
  rcases hrow with ⟨rfl, rfl⟩ | ⟨rfl, rfl⟩ | ⟨rfl, rfl⟩ | ⟨rfl, rfl⟩ | ⟨rfl, rfl⟩ | ⟨rfl, rfl⟩ | ⟨rfl, rfl⟩ |
    ⟨rfl, rfl⟩ | ⟨rfl, rfl⟩ | ⟨rfl, rfl⟩ | ⟨rfl, rfl⟩ | ⟨rfl, rfl⟩ | ⟨rfl, rfl⟩ <;>
    simp [dispatchFields, decodeGroup0, decodeGroupE, decodeGroupF, hg, hnn, splitFields, Instr.rowNumber]

end

/-- Row 1 is group 0x0 without the low bytes of CLS and RET. -/
theorem dispatchFields_of_row_one {w : Word} (h : passesRow w (1, 0xF000, 0x0000) = true) :
    ∃ i, dispatchFields w (splitFields w) = .recognised i ∧ i.rowNumber = 1 := by
  obtain ⟨hmask, hE0, hEE⟩ : w &&& 0xF000 = 0x0000 ∧ w &&& 0x00FF ≠ 0x00E0 ∧ w &&& 0x00FF ≠ 0x00EE := by
    simpa [passesRow] using h
  have hg : (splitFields w).g = 0x0#4 := (Laws.RowPattern.and_ones4 _).symm.trans (splitFields_of_mask hmask).1
  rw [and_lowByte_mask] at hE0 hEE
  have hnnE0 : (splitFields w).nn ≠ 0xE0#8 := fun hnn => hE0 (hnn ▸ rfl)
  have hnnEE : (splitFields w).nn ≠ 0xEE#8 := fun hnn => hEE (hnn ▸ rfl)
  simp [dispatchFields, decodeGroup0, hg, hnnE0, hnnEE, Instr.rowNumber]

theorem decode_of_passesRow {w : Word} {row : Nat × Word × Word} (hrow : row ∈ opcodeRows) (h : passesRow w row = true) :
    ∃ i, decode w = .recognised i ∧ i.rowNumber = row.1 := by
  have hkind := mask_of_mem_opcodeRows row hrow
  obtain ⟨k, m, p⟩ := row
  have hmask : w &&& m = p := by
    simp only [passesRow, Bool.and_eq_true, beq_iff_eq] at h
    exact h.1
  obtain ⟨hg, hn, hnn⟩ := splitFields_of_mask hmask
  obtain rfl | rfl | rfl : m = 0xF000 ∨ m = 0xF00F ∨ m = 0xF0FF := hkind
  · by_cases hk : k = 1
    · subst hk
      obtain rfl : p = 0x0000 := by simpa [opcodeRows] using hrow
      exact dispatchFields_of_row_one h
    · exact dispatchFields_of_group_row hrow hk ((Laws.RowPattern.and_ones4 _).symm.trans hg) w
  · exact dispatchFields_of_nibble_row hrow ((Laws.RowPattern.and_ones4 _).symm.trans hg)
      ((Laws.RowPattern.and_ones4 _).symm.trans hn) w
  · exact dispatchFields_of_byte_row hrow ((Laws.RowPattern.and_ones4 _).symm.trans hg)
      ((Laws.RowPattern.and_ones8 _).symm.trans hnn) w

/-! ### From the instruction to the row -/

theorem passesRow_of_decode {w : Word} {i : Instr} {row : Nat × Word × Word} (hrow : row ∈ opcodeRows)
    (h : decode w = .recognised i) (hi : i.rowNumber = row.1) : passesRow w row = true := by
  obtain ⟨rfl, hwf⟩ := encode_of_decode h
  obtain ⟨row', hrow', hnum, hpasses⟩ := Laws.RowPattern.passes_own_row i hwf
  rwa [← eq_of_rowNumber_eq row' hrow' row hrow (hnum.trans hi)]

/-- Settles O4: a row's mask keeps the fields the dispatcher selects that row by; an instruction's word passes its own row, and a
row is told by its number. -/
theorem decodeSelectsTheRowByMaskAndMatch : Obligations.DecodeSelectsTheRowByMaskAndMatch :=
  fun _ _ hrow => ⟨decode_of_passesRow hrow, fun ⟨_, hdecode, hnum⟩ => passesRow_of_decode hrow hdecode hnum⟩

end Sys2Proof
end

section
/-! PROOFS. One slot (30_encoding R91, R95). -/

namespace Sys2Proof.Machine

theorem State.fetchWord_eq {s : State} {hi lo : Byte} (hhi : Memory.read s.mem (s.pc.toNat % 4096) = hi)
    (hlo : Memory.read s.mem ((s.pc.toNat + 1) % 4096) = lo) : s.fetchWord = hi ++ lo := congrArg₂ wordOfBytes hhi hlo

/-- Settles O7: the fetch assembles the two bytes, and an unrecognised verdict carries the word it is about. -/
theorem stepRunsTheFetchedInstruction : Obligations.StepRunsTheFetchedInstruction := by
  intro s hi lo hhi hlo
  rw [← State.fetchWord_eq hhi hlo]
  refine ⟨fun i h => step_recognised h, fun w h => ⟨_, step_unrecognised h, ?_⟩⟩
  rw [(unrecognisedWord_of_decode h).1]
  rfl

end Sys2Proof.Machine
end

section
/-! PROOFS. What the operations on PC, the stack and DIAG leave unchanged: a frame for each (10_state R42). -/

namespace Sys2Proof.Machine

/-- A state frames itself, whatever may be written; a frame of an update differs from it in the pieces written. -/
theorem Frame.refl (w : Writes) (s : State) : Frame w s s where
  regs _ _ := rfl
  mem _ _ := rfl
  i _ := rfl
  pc _ := rfl
  sp _ := rfl
  stack _ := rfl
  dt _ := rfl
  st _ := rfl
  fb _ := rfl
  diag _ := rfl
  draws _ := rfl
  keys := rfl
  quirks := rfl
  run := rfl
  acc := rfl

section
variable (s : State)

theorem State.raise_frame (kind : EventKind) (w : Word) (b : Byte) : Frame { diag := true } s (s.raise kind w b) :=
  { Frame.refl { diag := true } s with diag := nofun }

theorem State.setPc_frame (n : Nat) : Frame { pc := true } s (s.setPc n) :=
  { Frame.refl { pc := true } s with pc := nofun }

theorem State.skipIf_frame (c : Bool) : Frame { pc := true } s (s.skipIf c) := by
  cases c with
  | true => exact s.setPc_frame _
  | false => exact .refl _ s

theorem State.pop_frame (h16 : s.sp.toNat - 1 < 16) : Frame { pc := true, sp := true } s (s.pop h16) :=
  { Frame.refl { pc := true, sp := true } s with pc := nofun, sp := nofun }

theorem State.push_setPc_frame (a : Word) (h16 : s.sp.toNat < 16) (n : Nat) :
    Frame { pc := true, sp := true, stack := true } s ((s.push a h16).setPc n) :=
  { Frame.refl { pc := true, sp := true, stack := true } s with pc := nofun, sp := nofun, stack := nofun }

end

end Sys2Proof.Machine
end

section
/-! PROOFS. Control transfer (40_flow R120 to R129). -/

namespace Sys2Proof.Machine

/-! ### The values PC takes -/

theorem State.toNat_setPc_nnn (s : State) (nnn : Addr) : (s.setPc nnn.toNat).pc.toNat = nnn.toNat :=
  (s.toNat_setPc _).trans (Nat.mod_eq_of_lt nnn.isLt)

theorem State.skipIf_pc_of_iff (s : State) {c : Bool} {p : Prop} [Decidable p] (h : c = true ↔ p) :
    (s.skipIf c).pc = if p then pcPlus s.pc 2 else s.pc :=
  (s.skipIf_pc c).trans (if_congr h rfl rfl)

/-- The skip on "not equal": PC stays where the values are equal. -/
theorem State.skipIf_pc_of_iff_not (s : State) {c : Bool} {p : Prop} [Decidable p] (h : c = true ↔ ¬ p) :
    (s.skipIf c).pc = if p then s.pc else pcPlus s.pc 2 :=
  (s.skipIf_pc_of_iff h).trans (ite_not ..)

theorem beq_iff_toNat_eq {a b : Byte} : (a == b) = true ↔ a.toNat = b.toNat := beq_iff_eq.trans BitVec.toNat_inj.symm

theorem bne_iff_toNat_ne {a b : Byte} : (a != b) = true ↔ ¬ a.toNat = b.toNat :=
  bne_iff_ne.trans (not_congr BitVec.toNat_inj.symm)

/-! ### The call stack -/

theorem State.toNat_pop_pc (s : State) (h16 : s.sp.toNat - 1 < 16) :
    (s.pop h16).pc.toNat = s.stack[s.sp.toNat - 1].toNat % 4096 := State.toNat_setPc _ _

/-- Popping from the stack a push has left gives back the address pushed and the SP from before. -/
theorem State.pop_of_push {s u : State} {a : Word} (h : s.sp.toNat < 16) (ha : a.toNat < 4096)
    (hsp : u.sp = (s.push a h).sp) (hstack : u.stack = (s.push a h).stack) (h16 : u.sp.toNat - 1 < 16) :
    (u.pop h16).pc = a ∧ (u.pop h16).sp = s.sp := by
  have hu : u.sp.toNat - 1 = s.sp.toNat := by rw [hsp, State.toNat_push_sp, Nat.add_sub_cancel]
  constructor
  · apply BitVec.eq_of_toNat_eq
    rw [State.toNat_pop_pc]
    simp only [hu, hstack, State.push_stack, Vector.getElem_set_self]
    exact Nat.mod_eq_of_lt ha
  · rw [State.pop_sp, hsp, State.push_sp, BitVec.add_sub_cancel]

/-- Settles O27: CALL pushes PC, and RET pops the stack that push has left. -/
theorem retReturnsAfterTheMatchingCall : Obligations.RetReturnsAfterTheMatchingCall := by
  intro nnn x s h16 hpc
  refine ⟨_, execCall_push nnn h16, fun u hsp hstack => ?_⟩
  have hu : u.sp.toNat = s.sp.toNat + 1 := (congrArg BitVec.toNat hsp).trans (State.toNat_push_sp s.pc h16)
  exact ⟨_, execRet_pop x (by omega) (by omega), State.pop_of_push h16 hpc hsp hstack _⟩

/-- Settles O24: RET with SP = 0, and with an entry to pop. -/
theorem retPopsOrReportsUnderflow : Obligations.RetPopsOrReportsUnderflow := by
  refine ⟨rfl, fun x s => ⟨decode_encode (i := .ret x) rfl, fun h0 => ?_, fun k hk hsp => ?_⟩⟩
  · exact ⟨_, execRet_empty x h0, rfl, s.raise_frame _ _ _⟩
  · obtain rfl : k = s.sp.toNat - 1 := by omega
    have hpos : 0 < s.sp.toNat := by omega
    exact ⟨_, execRet_pop x hpos hk, State.toNat_pop_sp hk hpos, s.toNat_pop_pc hk, s.pop_frame hk⟩

/-- Settles O25: CALL with SP = 16, and with a free entry. -/
theorem callPushesOrReportsOverflow : Obligations.CallPushesOrReportsOverflow := by
  refine ⟨rfl, fun nnn s => ⟨decode_encode (i := .call nnn) rfl, fun hfull => ?_, ?_⟩⟩
  · exact ⟨_, execCall_full nnn hfull, rfl, s.raise_frame _ _ _⟩
  · rintro _ h16 rfl
    exact ⟨_, execCall_push nnn h16, Vector.getElem_set_self h16, fun _ hj hne => Vector.getElem_set_ne h16 hj hne.symm,
      State.toNat_push_sp s.pc h16, State.toNat_setPc_nnn _ nnn, s.push_setPc_frame _ h16 _⟩

/-! ### SYS -/

theorem wellFormed_sys {nnn : Addr} (hE0 : nnn.toNat % 256 ≠ 0xE0) (hEE : nnn.toNat % 256 ≠ 0xEE) :
    (Instr.sys nnn).wellFormed = true := by
  have hlow : (Addr.lowByte nnn).toNat = nnn.toNat % 256 := by simp [Addr.lowByte]
  rw [← hlow] at hE0 hEE
  rw [Instr.wellFormed, Bool.and_eq_true, bne_iff_toNat_ne, bne_iff_toNat_ne]
  exact ⟨hE0, hEE⟩

/-- Settles O23: the word is the encoding of a well-formed SYS, and the meaning is the report alone. -/
theorem sysOnlyReportsItself : Obligations.SysOnlyReportsItself :=
  ⟨rfl, fun nnn s => ⟨fun hE0 hEE => decode_encode (i := .sys nnn) (wellFormed_sys hE0 hEE),
    _, rfl, rfl, s.raise_frame _ _ _⟩⟩

/-! ### Jumps and skips -/

/-- Settles O28: both jumps are one write of PC, modulo 4096. -/
theorem jumpsSetPc : Obligations.JumpsSetPc :=
  fun nnn s => ⟨decode_encode (i := .jp nnn) rfl, decode_encode (i := .jpV0 nnn) rfl,
    ⟨_, rfl, s.toNat_setPc_nnn nnn, s.setPc_frame _⟩, ⟨_, rfl, s.toNat_setPc _, s.setPc_frame _⟩⟩

/-- Settles O30: the four skips are one operation, on "equal" or on "not equal". -/
theorem skipsMovePcWhenTheComparisonHolds : Obligations.SkipsMovePcWhenTheComparisonHolds := by
  intro x y nn s
  refine ⟨decode_encode (i := .seImm x nn) rfl, decode_encode (i := .sneImm x nn) rfl,
    decode_encode (i := .seReg x y) rfl, decode_encode (i := .sneReg x y) rfl, ?_, ?_, ?_, ?_⟩
  · exact ⟨_, rfl, s.skipIf_frame _, s.skipIf_pc_of_iff beq_iff_toNat_eq⟩
  · exact ⟨_, rfl, s.skipIf_frame _, s.skipIf_pc_of_iff_not bne_iff_toNat_ne⟩
  · exact ⟨_, rfl, s.skipIf_frame _, s.skipIf_pc_of_iff beq_iff_toNat_eq⟩
  · exact ⟨_, rfl, s.skipIf_frame _, s.skipIf_pc_of_iff_not bne_iff_toNat_ne⟩

end Sys2Proof.Machine
end

section
/-! PROOFS. What a write of V[X], with its flag or after a draw, leaves unchanged, and what the flag and the result come to
(10_state R22, R42; 41_alu R152, R153). -/

namespace Sys2Proof.Machine

section
variable (s : State) (x : Nibble)

theorem State.writeV_frame (b : Byte) : Frame { regs := fun r => r = x } s (s.writeV x b) :=
  { Frame.refl { regs := fun r => r = x } s with regs := fun _ hr => s.readV_writeV_ne b hr }

theorem State.takeDraw_writeV_frame (b : Byte) :
    Frame { regs := fun r => r = x, draws := true } s (s.takeDraw.writeV x b) :=
  { Frame.refl { regs := fun r => r = x, draws := true } s with
    regs := fun _ hr => s.takeDraw.readV_writeV_ne b hr
    draws := nofun }

theorem State.writeResultFlag_frame (b : Byte) (f : Bool) :
    Frame { regs := fun r => r = x ∨ r = 15 } s (s.writeResultFlag x b f) :=
  { Frame.refl { regs := fun r => r = x ∨ r = 15 } s with
    regs := fun r hr => by
      obtain ⟨hx, h15⟩ := not_or.mp hr
      exact (s.readV_writeResultFlag x r b f).trans ((if_neg h15).trans (if_neg hx)) }

/-- VF holds the flag, also where X is 15 (decision D6). -/
theorem State.readV_flagReg_writeResultFlag (b : Byte) (f : Bool) : (s.writeResultFlag x b f).readV 15 = flagByte f :=
  (s.readV_writeResultFlag x 15 b f).trans (if_pos rfl)

theorem State.readV_writeResultFlag_of_ne {x : Nibble} (hx : x ≠ 15) (b : Byte) (f : Bool) :
    (s.writeResultFlag x b f).readV x = b :=
  (s.readV_writeResultFlag x x b f).trans ((if_neg hx).trans (if_pos rfl))

end

/-! ### The flag as a number -/

theorem flagByte_of_iff {f : Bool} {p : Prop} [Decidable p] (h : f = true ↔ p) : flagByte f = if p then 1 else 0 :=
  if_congr h rfl rfl

theorem toNat_flagByte (f : Bool) : (flagByte f).toNat = f.toNat := by cases f <;> rfl

theorem toNat_flagByte_rightShiftedOut (b : Byte) : (flagByte (rightShiftedOut b)).toNat = b.toNat % 2 := by
  rw [toNat_flagByte, rightShiftedOut, BitVec.getLsbD, Nat.toNat_testBit, Nat.pow_zero, Nat.div_one]

theorem toNat_flagByte_leftShiftedOut (b : Byte) : (flagByte (leftShiftedOut b)).toNat = b.toNat / 128 := by
  have hb : b.toNat < 256 := b.isLt
  rw [toNat_flagByte, leftShiftedOut, BitVec.getLsbD, Nat.toNat_testBit]
  omega

/-! ### The result as a number -/

/-- The difference modulo 256, with the subtrahend taken from 256 more so that no subtraction is cut off at 0. -/
theorem toNat_sub_byte (a b : Byte) : (a - b).toNat = (256 + a.toNat - b.toNat) % 256 := by
  have hb : b.toNat < 256 := b.isLt
  rw [BitVec.toNat_sub]
  omega

theorem toNat_ushiftRight_one (b : Byte) : (b >>> 1).toNat = b.toNat / 2 := by
  rw [BitVec.toNat_ushiftRight, Nat.shiftRight_one]

theorem toNat_shiftLeft_one (b : Byte) : (b <<< 1).toNat = b.toNat * 2 % 256 := by
  rw [BitVec.toNat_shiftLeft, Nat.shiftLeft_eq, Nat.pow_one]

/-- A result and its flag, read back as the number `n` and the condition `p` that they stand for. -/
theorem State.writeResultFlag_spec (s : State) (x : Nibble) {b : Byte} {f : Bool} {p : Prop} [Decidable p] {n : Nat}
    (hf : f = true ↔ p) (hb : b.toNat = n) :
    Frame { regs := fun r => r = x ∨ r = 15 } s (s.writeResultFlag x b f) ∧
      (s.writeResultFlag x b f).readV 15 = (if p then 1 else 0) ∧
      (x ≠ 15 → ((s.writeResultFlag x b f).readV x).toNat = n) :=
  ⟨s.writeResultFlag_frame x b f, (s.readV_flagReg_writeResultFlag x b f).trans (flagByte_of_iff hf),
    fun hx => (congrArg BitVec.toNat (s.readV_writeResultFlag_of_ne hx b f)).trans hb⟩

end Sys2Proof.Machine
end

section
/-! PROOFS. Register load, arithmetic, logic, shift, random (41_alu R140 to R153). -/

namespace Sys2Proof.Machine

/-! ### Writes of V[X] alone -/

/-- Settles O31: each of the five is one write of V[X]; the logic is read bit by bit. -/
theorem loadsAndLogicWriteVxAlone : Obligations.LoadsAndLogicWriteVxAlone := by
  intro x y nn s
  refine ⟨decode_encode (i := .ldImm x nn) rfl, decode_encode (i := .ldReg x y) rfl, decode_encode (i := .orReg x y) rfl,
    decode_encode (i := .andReg x y) rfl, decode_encode (i := .xorReg x y) rfl, ?_, ?_, ?_, ?_, ?_⟩
  · exact ⟨_, rfl, s.readV_writeV_same x _, s.writeV_frame x _⟩
  · exact ⟨_, rfl, s.readV_writeV_same x _, s.writeV_frame x _⟩
  · refine ⟨_, rfl, s.writeV_frame x _, fun k _ => ?_⟩
    rw [State.readV_writeV_same, BitVec.getLsbD_or]
  · refine ⟨_, rfl, s.writeV_frame x _, fun k _ => ?_⟩
    rw [State.readV_writeV_same, BitVec.getLsbD_and]
  · refine ⟨_, rfl, s.writeV_frame x _, fun k _ => ?_⟩
    rw [State.readV_writeV_same, BitVec.getLsbD_xor]

/-- Settles O32: one write of V[X], VF not written beside it. -/
theorem addImmediateWrapsWithoutFlag : Obligations.AddImmediateWrapsWithoutFlag := by
  intro x nn s
  refine ⟨decode_encode (i := .addImm x nn) rfl, _, rfl, ?_, s.writeV_frame x _⟩
  rw [State.readV_writeV_same, BitVec.toNat_add]

/-- Settles O35: a draw, then one write of V[X]; a bit clear in NN is clear in the conjunction. -/
theorem randomByteIsMasked : Obligations.RandomByteIsMasked := by
  intro x nn s
  have hx := s.takeDraw.readV_writeV_same x (s.nextRandomByte &&& nn)
  refine ⟨decode_encode (i := .rnd x nn) rfl, _, rfl, hx, fun k _ hk => ?_, rfl, s.takeDraw_writeV_frame x _⟩
  rw [hx, BitVec.getLsbD_and, hk, Bool.and_false]

/-! ### Writes of V[X] and the flag -/

/-- Settles O33: the three write a result and its flag, both computed from the values before. -/
theorem addAndSubtractSetResultAndFlag : Obligations.AddAndSubtractSetResultAndFlag := by
  intro x y s
  refine ⟨decode_encode (i := .addReg x y) rfl, decode_encode (i := .sub x y) rfl, decode_encode (i := .subn x y) rfl,
    ?_, ?_, ?_⟩
  · exact ⟨_, rfl, s.writeResultFlag_spec x (carryFlag_iff _ _) (BitVec.toNat_add _ _)⟩
  · exact ⟨_, rfl, s.writeResultFlag_spec x (notBorrowFlag_iff _ _) (toNat_sub_byte _ _)⟩
  · exact ⟨_, rfl, s.writeResultFlag_spec x (notBorrowFlag_iff _ _) (toNat_sub_byte _ _)⟩

/-- Settles O34: both shifts write the shifted source and the bit moved out. -/
theorem shiftsMoveTheSelectedSource : Obligations.ShiftsMoveTheSelectedSource := by
  intro x y s src hsrc
  obtain rfl : src = s.shiftSource x y := hsrc
  refine ⟨decode_encode (i := .shr x y) rfl, decode_encode (i := .shl x y) rfl, ?_, ?_⟩
  · refine ⟨_, rfl, s.writeResultFlag_frame x _ _, ?_, fun hx => ?_⟩
    · rw [State.readV_flagReg_writeResultFlag, toNat_flagByte_rightShiftedOut]
    · rw [State.readV_writeResultFlag_of_ne _ hx, toNat_ushiftRight_one]
  · refine ⟨_, rfl, s.writeResultFlag_frame x _ _, ?_, fun hx => ?_⟩
    · rw [State.readV_flagReg_writeResultFlag, toNat_flagByte_leftShiftedOut]
    · rw [State.readV_writeResultFlag_of_ne _ hx, toNat_shiftLeft_one]

end Sys2Proof.Machine
end

section
/-! PROOFS. CLS and DRW (42_display R161 to R166). A 1-bit of a sprite lands on one pixel, no two of them on the same one, so a
sprite turns over each pixel it covers once; that is shown bit by bit, over a row and over the rows. -/

namespace Sys2Proof.Machine

/-! ### The framebuffer: equality, readout and frames -/

theorem Framebuffer.ext_pixel {a b : Framebuffer} (h : ∀ py < 32, ∀ px < 64, a.pixel py px = b.pixel py px) : a = b := by
  refine Vector.ext fun py hpy => BitVec.eq_of_getLsbD_eq fun px hpx => ?_
  simpa [Framebuffer.pixel, hpy] using h py hpy px hpx

theorem State.readFramebuffer_of_blank {s : State} (h : s.fb = Framebuffer.blank) :
    s.readFramebuffer = List.replicate 32 (List.replicate 64 false) := by
  simp [State.readFramebuffer, h]

theorem State.setFb_frame (s : State) (fb : Framebuffer) : Frame { fb := true } s (s.setFb fb) :=
  { Frame.refl { fb := true } s with fb := nofun }

theorem State.setFb_setFlag_frame (s : State) (fb : Framebuffer) (f : Bool) :
    Frame { regs := fun r => r = 15, fb := true } s ((s.setFb fb).setFlag f) :=
  { Frame.refl { regs := fun r => r = 15, fb := true } s with
    regs := fun r hr => ((s.setFb fb).readV_setFlag f r).trans (if_neg hr)
    fb := nofun }

/-- Settles O36: CLS is one write of the blank framebuffer. -/
theorem clearScreenZeroesEveryPixel : Obligations.ClearScreenZeroesEveryPixel :=
  fun x s => ⟨decode_encode (i := .cls x) rfl, _, rfl, fun py _ px _ => Framebuffer.pixel_blank py px,
    State.readFramebuffer_of_blank rfl, s.setFb_frame _⟩

/-! ### Drawings: which pixels are turned over, and whether a set one was met -/

/-- From `d` to `d'` the pixels of the grid that `covers` names are turned over and the others kept, and the collision is
recorded if it was before or if a covered pixel was set. -/
structure DrawsOver (covers : Nat → Nat → Prop) (d d' : Framebuffer × Bool) : Prop where
  turned : ∀ py < 32, ∀ px < 64, covers py px → d'.1.pixel py px = !d.1.pixel py px
  kept : ∀ py < 32, ∀ px < 64, ¬ covers py px → d'.1.pixel py px = d.1.pixel py px
  collided : d'.2 = true ↔ d.2 = true ∨ ∃ py < 32, ∃ px < 64, covers py px ∧ d.1.pixel py px = true

section
variable {P Q : Nat → Nat → Prop} {d d' d'' : Framebuffer × Bool}

theorem DrawsOver.nothing (h : ∀ py < 32, ∀ px < 64, ¬ P py px) : DrawsOver P d d where
  turned py hy px hx hP := absurd hP (h py hy px hx)
  kept _ _ _ _ _ := rfl
  collided := ⟨.inl, fun hd => hd.elim id fun ⟨py, hy, px, hx, hP, _⟩ => absurd hP (h py hy px hx)⟩

/-- Two drawings that have no pixel in common make one. -/
theorem DrawsOver.append (h : DrawsOver P d d') (h' : DrawsOver Q d' d'') (hPQ : ∀ py px, P py px → ¬ Q py px) :
    DrawsOver (fun py px => P py px ∨ Q py px) d d'' where
  turned py hy px hx hc := by
    rcases hc with hP | hQ
    · rw [h'.kept py hy px hx (hPQ py px hP), h.turned py hy px hx hP]
    · rw [h'.turned py hy px hx hQ, h.kept py hy px hx fun hP => hPQ py px hP hQ]
  kept py hy px hx hc := by
    obtain ⟨hP, hQ⟩ := not_or.mp hc
    rw [h'.kept py hy px hx hQ, h.kept py hy px hx hP]
  collided := by
    have hQ : ∀ py < 32, ∀ px < 64, Q py px → d'.1.pixel py px = d.1.pixel py px :=
      fun py hy px hx hQ => h.kept py hy px hx fun hP => hPQ py px hP hQ
    rw [h'.collided, h.collided]
    constructor
    · rintro ((hd | ⟨py, hy, px, hx, hP, hset⟩) | ⟨py, hy, px, hx, hc, hset⟩)
      · exact .inl hd
      · exact .inr ⟨py, hy, px, hx, .inl hP, hset⟩
      · exact .inr ⟨py, hy, px, hx, .inr hc, hQ py hy px hx hc ▸ hset⟩
    · rintro (hd | ⟨py, hy, px, hx, hP | hc, hset⟩)
      · exact .inl (.inl hd)
      · exact .inl (.inr ⟨py, hy, px, hx, hP, hset⟩)
      · exact .inr ⟨py, hy, px, hx, hc, (hQ py hy px hx hc).trans hset⟩

/-- Drawings made one after another, no two with a pixel in common, make one. -/
theorem DrawsOver.foldl_range {f : Framebuffer × Bool → Nat → Framebuffer × Bool} {P : Nat → Nat → Nat → Prop} {n : Nat}
    (hf : ∀ k < n, ∀ d, DrawsOver (P k) d (f d k)) (hdisj : ∀ j k, j < k → k < n → ∀ py px, P j py px → ¬ P k py px)
    (d : Framebuffer × Bool) : DrawsOver (fun py px => ∃ k < n, P k py px) d ((List.range n).foldl f d) := by
  induction n with
  | zero => exact .nothing fun _ _ _ _ ⟨_, hk, _⟩ => absurd hk (Nat.not_lt_zero _)
  | succ n ih =>
    have hrest := ih (fun k hk => hf k (by omega)) fun j k hjk hk => hdisj j k hjk (by omega)
    simp only [List.range_succ, List.foldl_append, List.foldl_cons, List.foldl_nil, Nat.exists_lt_succ_right]
    exact hrest.append (hf n n.lt_succ_self _) fun py px ⟨j, hj, hP⟩ => hdisj j n hj n.lt_succ_self py px hP

/-- Drawing over the same pixels again gives the framebuffer back. -/
theorem DrawsOver.fb_eq_of_twice {f : Bool} (h : DrawsOver P d d') (h' : DrawsOver P (d'.1, f) d'') : d''.1 = d.1 := by
  refine Framebuffer.ext_pixel fun py hy px hx => ?_
  by_cases hP : P py px
  · rw [h'.turned py hy px hx hP, h.turned py hy px hx hP, Bool.not_not]
  · rw [h'.kept py hy px hx hP, h.kept py hy px hx hP]

/-- The second drawing collides on the covered pixels that were clear before the first. -/
theorem DrawsOver.collided_of_twice (h : DrawsOver P d d') (h' : DrawsOver P (d'.1, false) d'') :
    d''.2 = true ↔ ∃ py < 32, ∃ px < 64, d.1.pixel py px = false ∧ P py px := by
  have hclear : ∀ py < 32, ∀ px < 64, P py px → (d'.1.pixel py px = true ↔ d.1.pixel py px = false) :=
    fun py hy px hx hP => by rw [h.turned py hy px hx hP, Bool.not_eq_true']
  rw [h'.collided, or_iff_right Bool.false_ne_true]
  constructor
  · rintro ⟨py, hy, px, hx, hP, hset⟩
    exact ⟨py, hy, px, hx, (hclear py hy px hx hP).mp hset, hP⟩
  · rintro ⟨py, hy, px, hx, hoff, hP⟩
    exact ⟨py, hy, px, hx, hP, (hclear py hy px hx hP).mpr hoff⟩

end

/-! ### From a bit to the sprite -/

/-- A 1-bit aimed at column `px`, row `py` is for pixel (x, y): the last clause of `spriteCovers` (R163). -/
def landsOn (qb : Bool) (px py y x : Nat) : Prop :=
  if qb then py % 32 = y ∧ px % 64 = x else py = y ∧ px = x

/-- Two bits of a sprite no larger than the grid that land on one pixel are the same bit. -/
theorem landsOn_inj {qb : Bool} {x0 y0 c c' r r' y x : Nat} (hc : c < 64) (hc' : c' < 64) (hr : r < 32) (hr' : r' < 32)
    (h : landsOn qb (x0 + c) (y0 + r) y x) (h' : landsOn qb (x0 + c') (y0 + r') y x) : r = r' ∧ c = c' := by
  cases qb with
  | true =>
    obtain ⟨hy, hx⟩ : (y0 + r) % 32 = y ∧ (x0 + c) % 64 = x := h
    obtain ⟨hy', hx'⟩ : (y0 + r') % 32 = y ∧ (x0 + c') % 64 = x := h'
    omega
  | false =>
    obtain ⟨hy, hx⟩ : y0 + r = y ∧ x0 + c = x := h
    obtain ⟨hy', hx'⟩ : y0 + r' = y ∧ x0 + c' = x := h'
    omega

/-- On the grid, the pixel a bit is placed at is the one it is for; outside the grid a bit is for no pixel. -/
theorem placePixel_eq_some_iff {qb : Bool} {px py y x : Nat} (hy : y < 32) (hx : x < 64) :
    placePixel qb px py = some (x, y) ↔ landsOn qb px py y x := by
  cases qb with
  | true => simp [placePixel, landsOn, and_comm]
  | false =>
    simp only [placePixel, landsOn, Bool.false_eq_true, if_false, Option.ite_none_right_eq_some, Option.some.injEq,
      Prod.mk.injEq, Config.fbWidth, Config.fbHeight]
    omega

theorem drawBit_drawsOver (qb : Bool) (px py : Nat) (d : Framebuffer × Bool) :
    DrawsOver (landsOn qb px py) d (drawBit qb px py d) := by
  cases h : placePixel qb px py with
  | none =>
    have hd : drawBit qb px py d = d := by rw [drawBit, h]
    rw [hd]
    refine .nothing fun y hy x hx hl => ?_
    cases h.symm.trans ((placePixel_eq_some_iff hy hx).mpr hl)
  | some p =>
    obtain ⟨x0, y0⟩ := p
    have hd : drawBit qb px py d = (d.1.toggle y0 x0, d.2 || d.1.pixel y0 x0) := by rw [drawBit, h]
    obtain ⟨hx0, hy0⟩ := placePixel_some h
    have hat : ∀ y < 32, ∀ x < 64, landsOn qb px py y x ↔ y = y0 ∧ x = x0 := fun y hy x hx => by
      rw [← placePixel_eq_some_iff hy hx, h, Option.some.injEq, Prod.mk.injEq, eq_comm, and_comm, @eq_comm _ y0]
    rw [hd]
    refine ⟨fun y hy x hx hl => ?_, fun y hy x hx hl => ?_, ?_⟩
    · obtain ⟨rfl, rfl⟩ := (hat y hy x hx).mp hl
      exact (d.1.pixel_toggle hy0 hx0 _ _).trans (if_pos ⟨rfl, rfl⟩)
    · exact (d.1.pixel_toggle hy0 hx0 y x).trans (if_neg (mt (hat y hy x hx).mpr hl))
    · rw [Bool.or_eq_true]
      refine or_congr_right ⟨fun hset => ⟨y0, hy0, x0, hx0, (hat y0 hy0 x0 hx0).mpr ⟨rfl, rfl⟩, hset⟩, ?_⟩
      rintro ⟨y, hy, x, hx, hl, hset⟩
      obtain ⟨rfl, rfl⟩ := (hat y hy x hx).mp hl
      exact hset

theorem drawRow_drawsOver (qb : Bool) (x0 py : Nat) (b : Byte) (d : Framebuffer × Bool) :
    DrawsOver (fun y x => ∃ c < 8, b.getLsbD (7 - c) = true ∧ landsOn qb (x0 + c) py y x) d (drawRow qb x0 py b d) := by
  refine .foldl_range (fun c _ d => ?_) (fun c c' hlt hc' y x ⟨_, hl⟩ ⟨_, hl'⟩ => ?_) d
  · by_cases hbit : b.getLsbD (7 - c) = true
    · simpa only [hbit, true_and, if_true] using drawBit_drawsOver qb (x0 + c) py d
    · rw [if_neg hbit]
      exact .nothing fun _ _ _ _ ⟨hset, _⟩ => hbit hset
  · obtain ⟨-, hc⟩ := landsOn_inj (r := 0) (r' := 0) (by omega) (by omega) (by omega) (by omega) hl hl'
    omega

/-- A sprite of at most 32 rows turns over the pixels it covers. -/
theorem drawSprite_drawsOver (qb : Bool) (x0 y0 : Nat) (row : Nat → Byte) {n : Nat} (hn : n ≤ 32) (d : Framebuffer × Bool) :
    DrawsOver (spriteCovers qb x0 y0 row n) d (drawSprite qb x0 y0 row n d) := by
  refine DrawsOver.foldl_range (fun r _ d => drawRow_drawsOver qb x0 (y0 + r) (row r) d) (fun r r' hlt hr' y x => ?_) d
  rintro ⟨c, hc, -, hl⟩ ⟨c', hc', -, hl'⟩
  obtain ⟨hr, -⟩ := landsOn_inj (by omega) (by omega) (by omega) (by omega) hl hl'
  omega

/-! ### DRW -/

/-- The pixels DRW Vx, Vy, N covers in the state `s`. -/
def State.drwCovers (s : State) (x y n : Nibble) : Nat → Nat → Prop :=
  spriteCovers s.quirks.qb ((s.readV x).toNat % 64) ((s.readV y).toNat % 32)
    (fun r => Memory.read s.mem ((s.i.toNat + r) % 4096)) n.toNat

/-- DRW is one drawing over the pixels it covers, with the collision in VF. -/
theorem exec_drw (x y n : Nibble) (s : State) :
    ∃ d, exec (.drw x y n) s = .next ((s.setFb d.1).setFlag d.2) ∧ DrawsOver (s.drwCovers x y n) (s.fb, false) d := by
  have hrow : s.spriteRow = fun r => Memory.read s.mem ((s.i.toNat + r) % 4096) :=
    funext fun r => s.memRead_eff s.i r
  refine ⟨_, rfl, ?_⟩
  rw [State.drwCovers, ← hrow]
  exact drawSprite_drawsOver _ _ _ _ (Nat.le_of_lt (n.isLt.trans (by decide))) _

/-- A drawing moves no sprite whose position is not in VF. -/
theorem State.drwCovers_setFb_setFlag (s : State) {x y : Nibble} (hx : x ≠ 15) (hy : y ≠ 15) (n : Nibble)
    (fb : Framebuffer) (f : Bool) : ((s.setFb fb).setFlag f).drwCovers x y n = s.drwCovers x y n := by
  have hframe := s.setFb_setFlag_frame fb f
  rw [State.drwCovers, hframe.regs x hx, hframe.regs y hy]
  rfl

theorem State.readV_flagReg_setFlag (s : State) (f : Bool) : (s.setFlag f).readV 15 = flagByte f :=
  s.readV_writeV_same _ _

theorem flagByte_eq_one_iff (f : Bool) : flagByte f = 1 ↔ f = true := by cases f <;> decide

/-- Settles O37: the drawing starts with no collision, so VF tells whether a covered pixel was set. -/
theorem drawTogglesCoveredPixelsAndDetectsCollision : Obligations.DrawTogglesCoveredPixelsAndDetectsCollision := by
  rintro x y n s _ rfl
  obtain ⟨d, hexec, hdraw⟩ := exec_drw x y n s
  have hvf : ((s.setFb d.1).setFlag d.2).readV 15 = flagByte d.2 := State.readV_flagReg_setFlag _ _
  refine ⟨decode_encode (i := .drw x y n) rfl, _, hexec, s.setFb_setFlag_frame _ _, hdraw.turned, hdraw.kept,
    fun hset => ?_, fun hnone => ?_⟩
  · exact hvf.trans (congrArg flagByte (hdraw.collided.mpr (.inr hset)))
  · have hfalse : d.2 = false := Bool.eq_false_iff.mpr fun hd =>
      hnone ((hdraw.collided.mp hd).resolve_left Bool.false_ne_true)
    exact hvf.trans (congrArg flagByte hfalse)

/-- Settles O38: the second draw covers the same pixels, as neither coordinate is in VF. -/
theorem drawingTwiceRestoresTheFramebuffer : Obligations.DrawingTwiceRestoresTheFramebuffer := by
  intro x y n s hx hy
  obtain ⟨d, hexec, hdraw⟩ := exec_drw x y n s
  obtain ⟨e, hexec', hdraw'⟩ := exec_drw x y n ((s.setFb d.1).setFlag d.2)
  rw [s.drwCovers_setFb_setFlag hx hy] at hdraw'
  refine ⟨_, _, hexec, hexec', hdraw.fb_eq_of_twice hdraw', ?_⟩
  rw [State.readV_flagReg_setFlag, flagByte_eq_one_iff]
  exact hdraw.collided_of_twice hdraw'

end Sys2Proof.Machine
end

section
/-! PROOFS. Keypad and timer instructions (43_keys_timers R170 to R176). -/

namespace Sys2Proof.Machine

/-! ### SKP and SKNP -/

/-- The whole byte is the index (decision D12), so one above 15 is refused. -/
theorem not_validIndex_of_lt {b : Byte} (h : 15 < b.toNat) : ¬ validIndex b = true :=
  (validIndex_iff b).not.2 (Nat.not_le_of_lt h)

section
variable {s : State} {x : Nibble}

theorem exec_skp_of_lt (hk : (s.readV x).toNat < 16) :
    exec (.skp x) s = .next (s.skipIf s.keys[(s.readV x).toNat]) := by
  rw [← s.keyDown_eq hk]
  exact if_pos ((validIndex_iff _).2 (Nat.le_of_lt_succ hk))

theorem exec_sknp_of_lt (hk : (s.readV x).toNat < 16) :
    exec (.sknp x) s = .next (s.skipIf (!s.keys[(s.readV x).toNat])) := by
  rw [← s.keyDown_eq hk]
  exact if_pos ((validIndex_iff _).2 (Nat.le_of_lt_succ hk))

end

/-- Settles O39: a valid index makes both a skip on its key, an invalid one makes both a report. -/
theorem keySkipsTestTheNamedKey : Obligations.KeySkipsTestTheNamedKey := by
  refine ⟨rfl, fun x s => ⟨decode_encode (i := .skp x) rfl, decode_encode (i := .sknp x) rfl, ?_, fun hbad => ?_⟩⟩
  · rintro _ hk rfl
    exact ⟨⟨_, exec_skp_of_lt hk, s.skipIf_frame _, s.skipIf_pc_of_iff Iff.rfl⟩,
      ⟨_, exec_sknp_of_lt hk, s.skipIf_frame _, s.skipIf_pc_of_iff_not Bool.not_iff_not⟩⟩
  · have hinvalid := not_validIndex_of_lt hbad
    exact ⟨⟨_, if_neg hinvalid, s.raise_frame _ _ _, rfl⟩, ⟨_, if_neg hinvalid, s.raise_frame _ _ _, rfl⟩⟩

/-! ### LD Vx, K -/

theorem State.rewindPc_frame (s : State) : Frame { pc := true } s s.rewindPc := s.setPc_frame _

theorem State.rewindPc_lt (s : State) : s.rewindPc.pc.toNat < 4096 := s.setPc_lt _

/-- The PC gone back to is 2 behind, also where PC is 0 or 1 and the difference wraps. -/
theorem State.rewindPc_add_two (s : State) : (s.rewindPc.pc.toNat + 2) % 4096 = s.pc.toNat % 4096 := by
  have hpc : s.rewindPc.pc.toNat = (s.pc - 2).toNat % 4096 := s.toNat_setPc _
  rw [hpc]
  bv_omega

theorem exec_ldVxK_of_none {s : State} (x : Nibble) (h : s.leastKeyDown = none) :
    exec (.ldVxK x) s = .next s.rewindPc := by
  simp only [exec, execLdVxK, h]

theorem exec_ldVxK_of_some {s : State} (x : Nibble) {k : Nat} (h : s.leastKeyDown = some k) :
    exec (.ldVxK x) s = .next (s.writeV x (BitVec.ofNat 8 k)) := by
  simp only [exec, execLdVxK, h]

/-- Settles O40: the keypad scan finds no key, and PC is rewound; or it finds the least one (decision D11), whose number is
V[X]'s new value. -/
theorem keyWaitRewindsOrTakesTheLeastKey : Obligations.KeyWaitRewindsOrTakesTheLeastKey := by
  refine fun x s => ⟨decode_encode (i := .ldVxK x) rfl, fun hup => ?_, fun k hk hdown hleast => ?_⟩
  · exact ⟨_, exec_ldVxK_of_none x (s.leastKeyDown_eq_none.2 hup), s.rewindPc_add_two, s.rewindPc_lt, s.rewindPc_frame⟩
  · refine ⟨_, exec_ldVxK_of_some x (s.leastKeyDown_eq_some hk hdown hleast), ?_, s.writeV_frame x _⟩
    rw [State.readV_writeV_same, BitVec.toNat_ofNat, Nat.mod_eq_of_lt (by omega)]

/-! ### The timers -/

theorem State.setDt_frame (s : State) (b : Byte) : Frame { dt := true } s (s.setDt b) :=
  { Frame.refl { dt := true } s with dt := nofun }

theorem State.setSt_frame (s : State) (b : Byte) : Frame { st := true } s (s.setSt b) :=
  { Frame.refl { st := true } s with st := nofun }

/-- Settles O41: each is one write, of V[X] or of a timer. -/
theorem timerInstructionsCopyRegisterAndTimer : Obligations.TimerInstructionsCopyRegisterAndTimer := by
  refine fun x s => ⟨decode_encode (i := .ldVxDt x) rfl, decode_encode (i := .ldDtVx x) rfl,
    decode_encode (i := .ldStVx x) rfl, ?_, ?_, ?_⟩
  · exact ⟨_, rfl, s.readV_writeV_same x _, s.writeV_frame x _⟩
  · exact ⟨_, rfl, rfl, s.setDt_frame _⟩
  · exact ⟨_, rfl, rfl, s.setSt_frame _⟩

end Sys2Proof.Machine
end

section
/-! PROOFS. The index register, loads and stores (44_index_memory R180 to R186). -/

namespace Sys2Proof.Machine

/-! ### LD I, ADD I and LD F -/

theorem State.setI_frame (s : State) (n : Nat) : Frame { i := true } s (s.setI n) :=
  { Frame.refl { i := true } s with i := nofun }

/-- Settles O43: each is one write of I, and an address operand is below 4096. -/
theorem indexLoadAndAdd : Obligations.IndexLoadAndAdd := by
  refine fun x nnn s => ⟨decode_encode (i := .ldI nnn) rfl, decode_encode (i := .addI x) rfl, ?_, ?_⟩
  · exact ⟨_, rfl, (s.toNat_setI _).trans (Nat.mod_eq_of_lt nnn.isLt), s.setI_frame _⟩
  · exact ⟨_, rfl, s.toNat_setI _, s.setI_frame _⟩

/-- The glyph of a digit lies below 4096, so that the write of I keeps the whole address. -/
theorem State.toNat_setI_glyphAddr (s : State) {d : Byte} (hd : d.toNat ≤ 15) :
    (s.setI (glyphAddr d)).i.toNat = 5 * d.toNat := by
  rw [State.toNat_setI]
  simp only [glyphAddr, Config.fontBase, Config.glyphBytes]
  omega

/-- Settles O44: a valid digit makes LD F a write of I, an invalid one a report. -/
theorem fontAddressOrInvalidDigit : Obligations.FontAddressOrInvalidDigit := by
  refine ⟨rfl, fun x s => ⟨decode_encode (i := .ldF x) rfl, fun hd => ?_, fun hbad => ?_⟩⟩
  · exact ⟨_, if_pos ((validIndex_iff _).2 hd), s.toNat_setI_glyphAddr hd, s.setI_frame _⟩
  · exact ⟨_, if_neg (not_validIndex_of_lt hbad), rfl, s.raise_frame _ _ _⟩

/-! ### LD B -/

theorem State.storeBytes_frame (s : State) (i : Word) (k : Nat) (bs : List Byte) :
    Frame { mem := true } s (s.storeBytes i k bs) := by
  rw [State.storeBytes_eq]
  exact { Frame.refl { mem := true } s with mem := nofun }

theorem toNat_bcdDigits (b : Byte) :
    (bcdDigits b).map BitVec.toNat = [b.toNat / 100, b.toNat / 10 % 10, b.toNat % 10] := by
  have hb := b.isLt
  simp only [bcdDigits, List.map_cons, List.map_nil, BitVec.toNat_ofNat, List.cons.injEq, and_true]
  omega

/-- Digit j of the three lies j bytes above the index. -/
theorem State.toNat_read_storeBytes_bcdDigits {s : State} {i : Word} {b : Byte} {j : Nat} (h : Memory.wf s.mem) (hj : j < 3) :
    (Memory.read (s.storeBytes i 0 (bcdDigits b)).mem (effAddr i j)).toNat =
      [b.toNat / 100, b.toNat / 10 % 10, b.toNat % 10][j] := by
  have hread := State.read_storeBytes_inside (i := i) (k := 0) (bs := bcdDigits b) h (by simp [bcdDigits]) hj
  rw [Nat.zero_add] at hread
  simp only [hread, ← toNat_bcdDigits]
  exact (List.getElem_map _).symm

/-- Settles O45: the three stores put the digits at offsets 0, 1 and 2 and leave the bytes at every other address. -/
theorem bcdStoresThreeDigits : Obligations.BcdStoresThreeDigits := by
  refine fun x s h => ⟨decode_encode (i := .ldB x) rfl, _, rfl, s.storeBytes_frame _ _ _,
    State.toNat_read_storeBytes_bcdDigits h (j := 0) (by decide),
    State.toNat_read_storeBytes_bcdDigits h (j := 1) (by decide),
    State.toNat_read_storeBytes_bcdDigits h (j := 2) (by decide), fun _ => rfl, fun a h0 h1 h2 => ?_⟩
  refine State.read_storeBytes_outside fun j hj => ?_
  match j, hj with
  | 0, _ => exact h0
  | 1, _ => exact h1
  | 2, _ => exact h2

/-! ### I after a bulk transfer (10_state R38) -/

section
variable {s : State} (x : Nibble)

theorem State.toNat_bulkIndex_i (h : s.quirks.qc = false) :
    (s.bulkIndex x).i.toNat = (s.i.toNat + x.toNat + 1) % 4096 := by
  rw [State.bulkIndex, if_neg (Bool.eq_false_iff.1 h)]
  exact s.toNat_setI _

theorem State.bulkIndex_of_qc (h : s.quirks.qc = true) : s.bulkIndex x = s := if_pos h

end

/-! ### LD [I], Vx -/

theorem State.storeBytes_bulkIndex_frame (s : State) (i : Word) (bs : List Byte) (x : Nibble) :
    Frame { mem := true, i := true } s ((s.storeBytes i 0 bs).bulkIndex x) := by
  rw [State.bulkIndex_eq, State.storeBytes_eq]
  exact { Frame.refl { mem := true, i := true } s with mem := nofun, i := nofun }

/-- An address that is no V[r]'s, r from 0 to X, is none the bulk store writes. -/
theorem State.read_storeBytes_lowRegs_outside {s : State} {x : Nibble} {a : Nat}
    (ha : ∀ r : Nibble, r.toNat ≤ x.toNat → a ≠ effAddr s.i r.toNat) :
    Memory.read (s.storeBytes s.i 0 (s.lowRegs x)).mem a = Memory.read s.mem a := by
  refine State.read_storeBytes_outside fun j hj => ?_
  rw [State.length_lowRegs] at hj
  have hr : (BitVec.ofNat 4 j).toNat = j := Nat.mod_eq_of_lt (hj.trans_le x.isLt)
  have hne := ha (BitVec.ofNat 4 j) (by omega)
  rwa [hr, ← Nat.zero_add j] at hne

/-- Settles O46: the stores write V[0..X] and keep I and QC; the move of I keeps memory. -/
theorem registerDumpStoresLowRegisters : Obligations.RegisterDumpStoresLowRegisters := by
  intro x s h
  have hstore := s.storeBytes_frame s.i 0 (s.lowRegs x)
  refine ⟨decode_encode (i := .storeRegs x) rfl, _, rfl, s.storeBytes_bulkIndex_frame _ _ x, ?_, ?_, ?_, ?_⟩
  · intro r hr
    rw [State.bulkIndex_mem]
    exact State.read_storeBytes_lowRegs h hr
  · intro a ha
    rw [State.bulkIndex_mem]
    exact State.read_storeBytes_lowRegs_outside ha
  · intro hqc
    rw [State.toNat_bulkIndex_i x (hstore.quirks ▸ hqc), hstore.i rfl]
  · intro hqc
    rw [State.bulkIndex_of_qc x (hstore.quirks ▸ hqc), hstore.i rfl]

/-! ### LD Vx, [I] -/

/-- The registers after a bulk load, the move of I included. -/
theorem State.readV_loadedRegs_bulkIndex (s : State) (x r : Nibble) :
    ({ s with v := s.loadedRegs x }.bulkIndex x).readV r =
      if r.toNat ≤ x.toNat then Memory.read s.mem (effAddr s.i r.toNat) else s.readV r := by
  rw [State.bulkIndex_eq, ← State.memRead_eff]
  exact s.readV_loadedRegs x r

theorem State.loadedRegs_bulkIndex_frame (s : State) (x : Nibble) :
    Frame { regs := fun r => r.toNat ≤ x.toNat, i := true } s ({ s with v := s.loadedRegs x }.bulkIndex x) := by
  have hregs : ∀ r : Nibble, ¬ r.toNat ≤ x.toNat → ({ s with v := s.loadedRegs x }.bulkIndex x).readV r = s.readV r :=
    fun r hr => (s.readV_loadedRegs_bulkIndex x r).trans (if_neg hr)
  rw [State.bulkIndex_eq] at hregs ⊢
  exact { Frame.refl { regs := fun r => r.toNat ≤ x.toNat, i := true } s with regs := hregs, i := nofun }

/-- Settles O47: V[0..X] come from memory, and the load moves I by QC as the store does. -/
theorem registerLoadReadsLowRegisters : Obligations.RegisterLoadReadsLowRegisters := by
  refine fun x s => ⟨decode_encode (i := .loadRegs x) rfl, _, rfl, s.loadedRegs_bulkIndex_frame x, fun r hr => ?_,
    fun hqc => State.toNat_bulkIndex_i x hqc, fun hqc => ?_⟩
  · exact (s.readV_loadedRegs_bulkIndex x r).trans (if_pos hr)
  · exact congrArg (·.i) (State.bulkIndex_of_qc (s := { s with v := s.loadedRegs x }) x hqc)

/-! ### The load after the store -/

/-- Settles O48: with QC = 1 the store keeps I, so the load reads the bytes at the addresses the store wrote. -/
theorem loadAfterDumpRestoresRegisters : Obligations.LoadAfterDumpRestoresRegisters := by
  intro x s w h hqc
  obtain ⟨-, t, hexec, -, hstored, -, -, hi⟩ := registerDumpStoresLowRegisters x s h
  refine ⟨t, _, hexec, rfl, fun r hr => ?_, fun r hr => ?_⟩
  · rw [State.readV_loadedRegs_bulkIndex, if_pos hr, ← hstored r hr, ← hi hqc]
  · rw [State.readV_loadedRegs_bulkIndex, if_neg (Nat.not_le_of_lt hr)]
    rfl

end Sys2Proof.Machine
end

section
/-! PROOFS. Nothing stops the machine (60_exceptions R200, R201): in a state that meets the invariant every instruction answers a
next state, so every slot, every tick and every session without an oversize image runs to its end. -/

namespace Sys2Proof.Machine

/-! ### Runs that reach their end -/

/-- The result is a next state, and it meets the invariant. -/
def Result.Completes (r : Result) (p : Params) : Prop := ∃ t, r = .next t ∧ t.Inv p

section
variable {p : Params} {s : State}

theorem State.Inv.completes (h : s.Inv p) : Result.Completes (.next s) p := ⟨s, rfl, h⟩

theorem Result.Completes.andThen {r : Result} {f : State → Result} (hr : r.Completes p)
    (hf : ∀ t : State, t.Inv p → (f t).Completes p) : (r.andThen f).Completes p := by
  obtain ⟨t, rfl, ht⟩ := hr
  exact hf t ht

/-! ### One slot -/

theorem execRet_completes (x : Nibble) (h : s.sp.toNat ≤ 16) : ∃ t, execRet x s = .next t := by
  rcases s.sp_cases_ret with h0 | ⟨hpos, h16⟩ | habove
  · exact ⟨_, execRet_empty x h0⟩
  · exact ⟨_, execRet_pop x hpos h16⟩
  · exact absurd habove (Nat.not_lt_of_le h)

theorem execCall_completes (nnn : Addr) (h : s.sp.toNat ≤ 16) : ∃ t, execCall nnn s = .next t := by
  rcases Nat.lt_or_eq_of_le h with h16 | hfull
  · exact ⟨_, execCall_push nnn h16⟩
  · exact ⟨_, execCall_full nnn hfull⟩

theorem exec_ldVxK_completes (x : Nibble) (s : State) : ∃ t, exec (.ldVxK x) s = .next t := by
  cases hk : s.leastKeyDown with
  | none => exact ⟨_, exec_ldVxK_of_none x hk⟩
  | some k => exact ⟨_, exec_ldVxK_of_some x hk⟩

/-- An index or a digit is taken or reported; either answers a next state. -/
theorem ifValid_completes (b : Byte) (u u' : State) :
    ∃ t, (if validIndex b then .next u else .next u' : Result) = .next t := ⟨_, (apply_ite _ _ _ _).symm⟩

/-- Only CALL and RET can stop, and only with SP above 16 (log entry 8). -/
theorem exec_completes (i : Instr) (h : s.sp.toNat ≤ 16) : ∃ t, exec i s = .next t := by
  cases i with
  | ret x => exact execRet_completes x h
  | call nnn => exact execCall_completes nnn h
  | ldVxK x => exact exec_ldVxK_completes x s
  | skp x | sknp x | ldF x => exact ifValid_completes _ _ _
  | _ => exact ⟨_, rfl⟩

theorem step_completes (h : s.Inv p) : Result.Completes (step s) p := by
  have hnext : ∃ t, step s = .next t := by
    cases hd : decode s.fetchWord with
    | recognised i =>
      rw [step_recognised hd]
      exact exec_completes i h.sp
    | unrecognised w => exact ⟨_, step_unrecognised hd⟩
  obtain ⟨t, ht⟩ := hnext
  exact ⟨t, ht, step_keeps_inv h ht⟩

/-! ### A tick -/

theorem slots_complete (k : Nat) (h : s.Inv p) : (slots k s).Completes p := by
  induction k generalizing s with
  | zero => exact h.completes
  | succ k ih => exact (step_completes h).andThen fun _ => ih

theorem instructionPhase_completes (k : Nat) (h : s.Inv p) : (instructionPhase k s).Completes p := by
  unfold instructionPhase
  split
  · exact slots_complete k h
  · split
    · exact (step_completes h).andThen fun _ ht => ⟨_, rfl, { ht with }⟩
    · exact h.completes
  · exact h.completes

theorem tick_completes (k elapsed : Nat) (h : s.Inv p) : (tick p k elapsed s).Completes p :=
  (instructionPhase_completes k h).andThen fun _ ht => (ht.timerPhase elapsed).completes

/-! ### A session -/

theorem loadProgram_completes {image : List Byte} (hlen : image.length ≤ 3584) (h : s.Inv p) :
    (loadProgram image s).Completes p := by
  rw [loadProgram, if_pos hlen]
  exact (h.storeBytes _ _ _).completes

/-- An oversize image is the one operation of the host that is refused (70_reset R257). -/
theorem applyHostOp_completes {op : HostOp} (himage : ∀ image, op = .loadProgram image → image.length ≤ 3584)
    (h : s.Inv p) : (applyHostOp p op s).Completes p := by
  have hkeeps : ∀ t, applyHostOp p op s = .next t → t.Inv p := fun t => everyHostOperationKeepsInvariant p op s t h
  cases op with
  | loadProgram image => exact loadProgram_completes (himage image rfl) h
  | tick k elapsed => exact tick_completes k elapsed h
  | _ => exact ⟨_, rfl, hkeeps _ rfl⟩

theorem session_completes {ops : List HostOp}
    (himages : ∀ image, HostOp.loadProgram image ∈ ops → image.length ≤ 3584) (h : s.Inv p) :
    (session p ops s).Completes p := by
  induction ops generalizing s with
  | nil => exact h.completes
  | cons op rest ih =>
    have hop : ∀ image, op = .loadProgram image → image.length ≤ 3584 :=
      fun image hop => himages image (hop ▸ List.mem_cons_self)
    exact (applyHostOp_completes hop h).andThen fun _ =>
      ih fun image hrest => himages image (List.mem_cons_of_mem op hrest)

end

/-- Settles O12: by induction on the operations, as each of them completes and keeps the invariant. -/
theorem noSessionHalts : Obligations.NoSessionHalts :=
  fun _ _ _ h himages => session_completes himages h

end Sys2Proof.Machine
end

section
/-! PROOFS. Diagnostic events (60_exceptions R200 to R210): what an instruction reports, when that is an error, and that DIAG, RUN
and ACC are not read. -/

namespace Sys2Proof.Machine

/-! ### The report of a step -/

/-- The recoverable error of R201 that the instruction `i` meets in the state `s`. -/
def meetsError (i : Instr) (s : State) : Prop :=
  match i with
  | .call _ => s.sp.toNat = 16
  | .ret _ => s.sp.toNat = 0
  | .ldF x | .skp x | .sknp x => 15 < (s.readV x).toNat
  | _ => False

/-- `Report w err s t`: from `s` to `t` the word `w` has reported nothing, or one event and nothing else has changed; the event
is an error where `err` holds, and information where it does not. -/
inductive Report (w : Word) (err : Prop) (s : State) : State → Prop
  | silent {t : State} (hdiag : t.diag = s.diag) (hok : ¬ err) : Report w err s t
  | error (kind : EventKind) (b : Byte) (hkind : kind ≠ .machineSubroutine) (herr : err) : Report w err s (s.raise kind w b)
  | information (hok : ¬ err) : Report w err s (s.raise .machineSubroutine w 0)

section
variable {s t : State}

theorem Report.ret {x : Nibble} (h : exec (.ret x) s = .next t) : Report (encode (.ret x)) (s.sp.toNat = 0) s t := by
  obtain ⟨h0, rfl⟩ | ⟨h16, hpos, rfl⟩ := exec_ret_cases h
  · exact .error _ _ nofun h0
  · exact .silent rfl (Nat.ne_of_gt hpos)

theorem Report.call {nnn : Addr} (h : exec (.call nnn) s = .next t) :
    Report (encode (.call nnn)) (s.sp.toNat = 16) s t := by
  obtain ⟨hfull, rfl⟩ | ⟨h16, rfl⟩ := exec_call_cases h
  · exact .error _ _ nofun hfull
  · exact .silent rfl (Nat.ne_of_lt h16)

/-- A byte above 15 is reported as an error; a valid one is used in silence. -/
theorem Report.of_validIndex {w : Word} {b : Byte} {kind : EventKind} {u : State} (hkind : kind ≠ .machineSubroutine)
    (hdiag : u.diag = s.diag) (h : (if validIndex b then .next u else .next (s.raise kind w b) : Result) = .next t) :
    Report w (15 < b.toNat) s t := by
  split at h
  · next hvalid => exact Host.Outcome.next.inj h ▸ .silent hdiag (Nat.not_lt_of_le ((validIndex_iff b).1 hvalid))
  · next hbad => exact Host.Outcome.next.inj h ▸ .error kind b hkind (Nat.lt_of_not_le (mt (validIndex_iff b).2 hbad))

theorem exec_report {i : Instr} (h : exec i s = .next t) : Report (encode i) (meetsError i s) s t := by
  cases i with
  | sys nnn => exact Host.Outcome.next.inj h ▸ .information id
  | ret x => exact .ret h
  | call nnn => exact .call h
  | skp x => exact .of_validIndex (kind := .invalidKeyIndex) nofun ((s.skipIf_frame _).diag rfl) h
  | sknp x => exact .of_validIndex (kind := .invalidKeyIndex) nofun ((s.skipIf_frame _).diag rfl) h
  | ldF x => exact .of_validIndex (kind := .invalidDigit) nofun ((s.setI_frame _).diag rfl) h
  | _ => exact .silent ((exec_effect h).diag_eq (by simp [Instr.rowNumber])) id

/-- The advance of PC moves neither SP nor a register. -/
theorem errorCondition_of_recognised {i : Instr} (h : decode s.fetchWord = .recognised i) :
    errorCondition s ↔ meetsError i s.advancePc := by
  unfold errorCondition
  rw [h]
  cases i <;> exact Iff.rfl

theorem errorCondition_of_unrecognised {w : Word} (h : decode s.fetchWord = .unrecognised w) : errorCondition s := by
  unfold errorCondition
  rw [h]
  trivial

/-- A step reports the word it has fetched, with PC at a + 2, and an error in the conditions of R201. -/
theorem step_report (h : step s = .next t) : Report s.fetchWord (errorCondition s) s.advancePc t := by
  rcases step_cases h with ⟨i, hi, hexec⟩ | ⟨w, hw, rfl⟩
  · rw [← (encode_of_decode hi).1, errorCondition_of_recognised hi]
    exact exec_report hexec
  · rw [(unrecognisedWord_of_decode hw).1]
    exact .error _ _ nofun (errorCondition_of_unrecognised hw)

end

/-- Settles O13: in each report of an event PC has advanced and one record stands in DIAG. -/
theorem raisingInstructionChangesOnlyPcAndDiag : Obligations.RaisingInstructionChangesOnlyPcAndDiag := by
  intro s t h
  cases step_report h with
  | silent hdiag => exact .inl hdiag
  | error kind b => exact .inr ⟨kind, b, rfl⟩
  | information => exact .inr ⟨.machineSubroutine, 0, rfl⟩

/-! ### Errors (R207) -/

theorem State.noError_raise (s : State) (kind : EventKind) (w : Word) (b : Byte) :
    (s.raise kind w b).noError = (s.noError && kind == .machineSubroutine) := by
  simp [State.noError, Event.isError, bne]

theorem Report.noError_eq_false_iff {w : Word} {err : Prop} {s t : State} (hs : s.noError = true)
    (h : Report w err s t) : t.noError = false ↔ err := by
  cases h with
  | silent hdiag hok =>
    have ht : t.noError = true := (congrArg (List.all · _) hdiag).trans hs
    simp [ht, hok]
  | error kind b hkind herr => simp [State.noError_raise, hkind, herr]
  | information hok => simp [State.noError_raise, hs, hok]

/-- Settles O14: from a state without an error, the error recorded is the one the step reports. -/
theorem errorsAreExactlyTheRecoverableOnes : Obligations.ErrorsAreExactlyTheRecoverableOnes :=
  fun s _ hs h => Report.noError_eq_false_iff (s := s.advancePc) hs (step_report h)

/-- Settles O8: a word of R100's table decodes to itself, unrecognised. -/
theorem unrecognisedWordIsReportedNoOp : Obligations.UnrecognisedWordIsReportedNoOp :=
  ⟨rfl, fun _ h => step_unrecognised (decode_of_unrecognisedWord h)⟩

/-! ### RUN, ACC and DIAG are not read (R230) -/

/-- The run state `r`, the accumulator `a`, and `d` in the place of the first `n` records of DIAG. -/
def Alteration.hostPieces (r : RunState) (a : Nat) (d : List Event) (n : Nat) : Alteration where
  run _ := r
  acc _ := a
  diag l := d ++ l.drop n

/-- A record appended stands after the records put in the place of the first ones. -/
theorem Alteration.hostPieces_appends (r : RunState) (a : Nat) (d : List Event) (s : State) :
    (Alteration.hostPieces r a d s.diag.length).Appends s := fun e => by
  simp [Alteration.hostPieces]

theorem State.altered_hostPieces (r : RunState) (a : Nat) (d : List Event) (s : State) :
    s.altered (.hostPieces r a d s.diag.length) = { s with run := r, acc := a, diag := d } := by
  simp [State.altered, Alteration.hostPieces]

/-- Settles O19: no instruction reads a piece so altered, and a record appended is appended to either output. -/
theorem stepDoesNotDependOnRunAccDiag : Obligations.StepDoesNotDependOnRunAccDiag := by
  intro s t r a d h
  have happends := Alteration.hostPieces_appends r a d s
  rw [← State.altered_hostPieces]
  exact step_altered happends (fun _ _ => ⟨fun _ => rfl, fun _ => rfl, fun _ => rfl, happends⟩) h

end Sys2Proof.Machine
end

section
/-! PROOFS. The scheduler (60_exceptions R220 to R232): the phases of a tick, the timers over any sequence of ticks, the run states
and the sound output. -/

namespace Sys2Proof.Machine

/-! ### The timer phase -/

section
variable {p : Params}

theorem State.timerPhase_timersAdvanced (s : State) (p : Params) (elapsed : Nat) :
    TimersAdvanced p elapsed s (s.timerPhase p elapsed) where
  acc := rfl
  dt := toNat_countDown _ _
  st := toNat_countDown _ _
  rest := rfl

/-- No time passes: with less than one quantum in ACC nothing falls due. -/
theorem TimersAdvanced.zero {s : State} (h : s.acc < p.quantum) : TimersAdvanced p 0 s s where
  acc := (Nat.mod_eq_of_lt h).symm
  dt := by rw [Nat.add_zero, Nat.div_eq_of_lt h, Nat.sub_zero]
  st := by rw [Nat.add_zero, Nat.div_eq_of_lt h, Nat.sub_zero]
  rest := rfl

/-- The quanta due over two times: those the first fills, and those the second fills together with the rest of the first. -/
theorem quanta_add (q time time' : Nat) : (time + time') / q = time / q + (time % q + time') / q := by
  rcases Nat.eq_zero_or_pos q with rfl | hq
  · simp
  · rw [← Nat.mul_add_div hq, ← Nat.add_assoc, Nat.div_add_mod]

/-- Two timer phases are one over the sum of their times. -/
theorem TimersAdvanced.trans {s t u : State} {e e' : Nat} (h : TimersAdvanced p e s t) (h' : TimersAdvanced p e' t u) :
    TimersAdvanced p (e + e') s u where
  acc := by rw [h'.acc, h.acc, Nat.mod_add_mod, Nat.add_assoc]
  dt := by rw [h'.dt, h.dt, h.acc, Nat.sub_sub, ← quanta_add, Nat.add_assoc]
  st := by rw [h'.st, h.st, h.acc, Nat.sub_sub, ← quanta_add, Nat.add_assoc]
  rest := by rw [h'.rest, h.rest]

/-! ### A tick -/

variable {k : Nat} {s u : State}

theorem instructionPhase_of_running (h : s.run = .running) : instructionPhase k s = slots k s := by
  simp only [instructionPhase, h]

theorem instructionPhase_of_pausedStep (h : s.run = .pausedStep) (hk : 1 ≤ k) (hstep : step s = .next u) :
    instructionPhase k s = .next (u.setRun .paused) := by
  simp only [instructionPhase, h, if_pos hk, hstep, Result.andThen]

theorem instructionPhase_of_paused (h : s.run = .paused) : instructionPhase k s = .next s := by
  simp only [instructionPhase, h]

/-- With K = 0 no slot runs, in any run state. -/
theorem instructionPhase_zero (s : State) : instructionPhase 0 s = .next s := by
  cases h : s.run with
  | running => exact instructionPhase_of_running h
  | paused => exact instructionPhase_of_paused h
  | pausedStep => simp [instructionPhase, h]

theorem tick_of_instructionPhase (elapsed : Nat) (h : instructionPhase k s = .next u) :
    tick p k elapsed s = .next (u.timerPhase p elapsed) := by
  rw [tick, h]
  rfl

theorem tick_timersAdvanced (elapsed : Nat) (h : instructionPhase k s = .next u) :
    ∃ t, tick p k elapsed s = .next t ∧ TimersAdvanced p elapsed u t :=
  ⟨_, tick_of_instructionPhase elapsed h, u.timerPhase_timersAdvanced p elapsed⟩

end

/-- Settles O50: the instruction phase in each run state, then the timer phase. -/
theorem tickRunsSlotsThenTimers : Obligations.TickRunsSlotsThenTimers := by
  refine fun p k elapsed s => ⟨fun h u hrun => ?_, fun h hk u hstep => ?_, fun _ hk => ?_, fun h => ?_⟩
  · rw [← slots_eq_run, ← instructionPhase_of_running h] at hrun
    exact tick_timersAdvanced elapsed hrun
  · exact tick_timersAdvanced elapsed (instructionPhase_of_pausedStep h hk hstep)
  · exact tick_timersAdvanced elapsed (hk ▸ instructionPhase_zero s)
  · exact tick_timersAdvanced elapsed (instructionPhase_of_paused h)

/-! ### A sequence of ticks (R223) -/

theorem TimersAdvanced.acc_lt {p : Params} {elapsed : Nat} {s t : State} (h : TimersAdvanced p elapsed s t)
    (hq : 0 < p.quantum) : t.acc < p.quantum := h.acc ▸ Nat.mod_lt _ hq

/-- Settles O51: by induction on the times, as two timer phases are one over the sum. -/
theorem timerLawOverAnySequenceOfTicks : Obligations.TimerLawOverAnySequenceOfTicks := by
  intro p times
  induction times with
  | nil => exact fun s hs => ⟨s, rfl, .zero hs⟩
  | cons e rest ih =>
    intro s hs
    obtain ⟨t, htick, ht⟩ := tick_timersAdvanced (p := p) e (instructionPhase_zero s)
    obtain ⟨u, hrest, hu⟩ := ih t (ht.acc_lt (Nat.zero_lt_of_lt hs))
    rw [List.sum_cons]
    exact ⟨u, Result.andThen_eq_next.2 ⟨t, htick, hrest⟩, ht.trans hu⟩

/-! ### Run states and sound -/

/-- Settles O52: each request is one write of RUN, by the transition table. -/
theorem pauseAndStepRequestTransitions : Obligations.PauseAndStepRequestTransitions :=
  fun _ _ => ⟨⟨_, rfl, rfl, congrArg RunState.toggled, congrArg RunState.toggled, congrArg RunState.toggled⟩,
    ⟨_, rfl, rfl, congrArg RunState.stepRequested, congrArg RunState.stepRequested, congrArg RunState.stepRequested⟩⟩

theorem State.soundOn_iff (s : State) : s.soundOn = true ↔ s.st.toNat ≠ 0 := bne_iff_toNat_ne

/-- Settles O42: the sound timer is not 0 after LD ST,Vx where V[X] is not, and after a tick where it is not run down. -/
theorem soundFollowsTheSoundTimer : Obligations.SoundFollowsTheSoundTimer := by
  intro p x elapsed s
  obtain ⟨t, htick, ht⟩ := tick_timersAdvanced (p := p) elapsed (instructionPhase_zero s)
  refine ⟨⟨_, rfl, State.soundOn_iff _⟩, t, htick, ?_⟩
  rw [State.soundOn_iff, ht.st, Nat.sub_ne_zero_iff_lt]

end Sys2Proof.Machine
end

section
/-! PROOFS. The host's operations on the keypad, the switches and memory, and the end of a run (70_reset R256 to R259, R273). -/

namespace Sys2Proof.Machine

/-! ### Keys and switches -/

/-- Settles O53: each of the two is one write, of a key flag or of the three switches. -/
theorem setKeyAndSetQuirksWriteOnlyThose : Obligations.SetKeyAndSetQuirksWriteOnlyThose := by
  refine fun p s k down a b c => ⟨⟨_, rfl, rfl, fun j hj => ?_⟩, _, rfl, rfl, rfl, rfl, rfl⟩
  simp only [State.setKey, Vector.getElem_set, eq_comm]

/-! ### LoadProgram -/

/-- The byte at offset k of an image that fits lies at 0x200 + k. -/
theorem effAddr_progBase {k : Nat} (hk : k < 3584) : effAddr (BitVec.ofNat 16 Config.progBase) k = 0x200 + k :=
  Nat.mod_eq_of_lt (show 0x200 + k < 4096 by omega)

/-- Settles O54: an image that fits is stored from 0x200 on, short of the end of memory, so that no address wraps. -/
theorem loadProgramCopiesOrRefuses : Obligations.LoadProgramCopiesOrRefuses := by
  refine fun p image s h => ⟨fun hlen => ⟨_, if_pos hlen, s.storeBytes_eq _ _ _, fun k hk => ?_, fun a ha => ?_⟩,
    fun hlen => if_neg (by simpa using hlen)⟩
  · have hread := State.read_storeBytes_inside (i := BitVec.ofNat 16 Config.progBase) (k := 0) h (by omega) hk
    rwa [Nat.zero_add, effAddr_progBase (by omega)] at hread
  · refine State.read_storeBytes_outside fun j hj => ?_
    rw [Nat.zero_add, effAddr_progBase (by omega)]
    omega

/-! ### The end of a run -/

section
variable {s : State}

/-- A finished state stands at a jump to its own address. -/
theorem State.finished_iff : s.finished = true ↔ ∃ nnn : Addr, s.pc.toNat = nnn.toNat ∧ s.fetchWord = encode (.jp nnn) := by
  simp only [State.finished, Bool.and_eq_true, decide_eq_true_eq, beq_iff_eq]
  constructor
  · rintro ⟨hpc, hfetch⟩
    exact ⟨_, by rw [BitVec.toNat_setWidth, Nat.mod_eq_of_lt hpc], hfetch⟩
  · rintro ⟨nnn, hpc, hfetch⟩
    have hnnn : s.pc.setWidth 12 = nnn :=
      BitVec.eq_of_toNat_eq (by rw [BitVec.toNat_setWidth, hpc, Nat.mod_eq_of_lt nnn.isLt])
    exact ⟨hpc ▸ nnn.isLt, hnnn ▸ hfetch⟩

/-- Whether a state is finished depends on PC and on memory only. -/
theorem State.finished_congr {t : State} (hpc : t.pc = s.pc) (hmem : t.mem = s.mem) : t.finished = s.finished := by
  simp only [State.finished, State.fetchWord, State.memRead, hpc, hmem]

/-- The jump to its own address undoes the advance of the fetch. -/
theorem State.setPc_advancePc_self {nnn : Addr} (hpc : s.pc.toNat = nnn.toNat) : s.advancePc.setPc nnn.toNat = s := by
  have hself : (s.advancePc.setPc nnn.toNat).pc = s.pc :=
    BitVec.eq_of_toNat_eq ((State.toNat_setPc_nnn _ nnn).trans hpc.symm)
  calc s.advancePc.setPc nnn.toNat = { s with pc := (s.advancePc.setPc nnn.toNat).pc } := rfl
    _ = s := by rw [hself]

theorem step_of_finished (h : s.finished = true) : step s = .next s := by
  obtain ⟨nnn, hpc, hfetch⟩ := State.finished_iff.1 h
  have hdecode : decode s.fetchWord = .recognised (.jp nnn) := hfetch ▸ decode_encode rfl
  rw [step_recognised hdecode]
  exact congrArg _ (State.setPc_advancePc_self hpc)

/-- The slots of a tick change nothing; only a pending step is taken (60_exceptions R228). -/
theorem instructionPhase_of_finished (k : Nat) (h : s.finished = true) :
    instructionPhase k s = .next (s.setRun (if s.run = .pausedStep ∧ 1 ≤ k then .paused else s.run)) := by
  by_cases hpending : s.run = .pausedStep ∧ 1 ≤ k
  · rw [if_pos hpending]
    exact instructionPhase_of_pausedStep hpending.1 hpending.2 (step_of_finished h)
  · rw [if_neg hpending]
    change instructionPhase k s = .next s
    cases hrun : s.run with
    | running => rw [instructionPhase_of_running hrun, slots_of_step_self (step_of_finished h)]
    | paused => exact instructionPhase_of_paused hrun
    | pausedStep =>
      obtain rfl : k = 0 := Nat.lt_one_iff.1 (Nat.lt_of_not_le fun hk => hpending ⟨hrun, hk⟩)
      exact instructionPhase_zero s

end

/-- Settles O29: a state at a self-jump is finished, and a step of a finished state changes nothing. -/
theorem selfJumpChangesNothing : Obligations.SelfJumpChangesNothing := by
  intro nnn s hpc hfetch
  have hfin : s.finished = true := State.finished_iff.2 ⟨nnn, hpc, hfetch⟩
  exact ⟨hfin, step_of_finished hfin⟩

/-- Settles O56: a tick writes RUN and then the timers, the other operations KEYS, QUIRKS or RUN; none of them moves PC or writes
memory, so the state stays finished. -/
theorem finishedProgramChangesOnlyTimers : Obligations.FinishedProgramChangesOnlyTimers := by
  refine fun p s hfin => ⟨fun k elapsed => ?_, fun op t hop htick hreset hload => ?_⟩
  · exact ⟨_, tick_of_instructionPhase elapsed (instructionPhase_of_finished k hfin),
      (State.finished_congr rfl rfl).trans hfin, rfl, State.timerPhase_timersAdvanced _ p elapsed⟩
  · cases op with
    | tick k elapsed => exact absurd rfl (htick k elapsed)
    | reset => exact absurd rfl hreset
    | loadProgram image => exact absurd rfl (hload image)
    | _ =>
      obtain rfl := Host.Outcome.next.inj hop
      exact ⟨(State.finished_congr rfl rfl).trans hfin, rfl⟩

end Sys2Proof.Machine
end
